-- ==== Sys2Proof/Word.lean ====
section
/-!
DEFINITION. The widths the spec names (00_scope.md R14).
-/

namespace Sys2Proof

/-- A codeword, and every bus datum (00_scope.md R14). -/
abbrev Word := BitVec 32

/-- A character as stored (00_scope.md R14, 10_state.md R28). -/
abbrev Byte := BitVec 8

/-- The 21 bits a codeword protects: the type flag and 20 data bits (00_scope.md R14). -/
abbrev Payload := BitVec 21

/-- The 20 data bits of a codeword (00_scope.md R14). -/
abbrev Data := BitVec 20

end Sys2Proof
end

