-- ==== Sys2Proof/Machine/Constants.lean ====
section
/-!
DEFINITION. The values the source fixes (00_scope.md R11).
-/

namespace Sys2Proof.Machine

/-- `PREAMBLE` (00_scope.md R11). -/
def preambleWord : Word := 0xAAAAAAAA#32

/-- `PREAMBLE_LEN`, 18 words (00_scope.md R11). -/
def preambleLen : Nat := 18

/-- `SYNC` (00_scope.md R11). -/
def syncWord : Word := 0x7CD215D8#32

/-- `IDLE` (00_scope.md R11). -/
def idleWord : Word := 0x7A89C197#32

/-- `FLAG_ADDR` (00_scope.md R11). -/
def flagAddr : Word := 0x000000#32

/-- `FLAG_MSG`, bit 20 of the payload (00_scope.md R11). -/
def flagMsg : Word := 0x100000#32

/-- `GEN`, 11 bits, degree 10 (00_scope.md R11). -/
def gen : BitVec 11 := 0b11101101001#11

/-- `BATCH`, codewords per synchronization word (00_scope.md R11). -/
def batch : Nat := 16

/-- `BITS_PER_CHAR` (00_scope.md R11). -/
def bitsPerChar : Nat := 7

/-- `BITS_PER_WORD` (00_scope.md R11). -/
def bitsPerWord : Nat := 20

end Sys2Proof.Machine
end

