-- ==== Sys2Proof/Config.lean ====
section
/-!
DEFINITION. The parameters of the block (00_scope.md R9) and its free values. A parameter the spec leaves OPEN is a constant
with no body; so is every free value (log entries 3, 4, 5 and 7).
-/

namespace Sys2Proof

/-- Where a final partial word's bits go (00_scope.md R9, 42_packer.md R158). -/
inductive PartialAlign where
  | msb
  | lsb
  deriving DecidableEq, Repr

/-- The two output levels of the modulator (44_modulator.md R189). -/
inductive Level where
  | high
  | low
  deriving DecidableEq, Repr

/-- What the sink says to one operation (44_modulator.md R186). `held` is an answer to a write only (R187). -/
inductive SinkAnswer where
  | ok
  | fail
  | held
  deriving DecidableEq, Repr, Inhabited

/-- The working registers of the compute commands: CRC_R, PAR, PK_ACC, PK_N, PK_POS and the assembler's `n`
(10_state.md R31 to R33). Outside one core step they are unspecified and never read. -/
structure Work where
  crcR   : BitVec 31
  par    : BitVec 1
  pkAcc  : BitVec 20
  pkN    : BitVec 5
  pkPos  : BitVec 4
  asmLen : Nat
  deriving DecidableEq, Repr, Inhabited

/-- The modulator's position: MW, MB, MS and SPB_L (10_state.md R34). Unspecified and never read while MPH = IDLE. -/
structure ModPos where
  /-- MW, the word index. -/
  mw   : Nat
  /-- MB, the bit index, 31..0. -/
  mb   : Nat
  /-- MS, the sample index within a bit. -/
  ms   : Nat
  /-- SPB_L, the samples per bit latched at acceptance. -/
  spbL : Nat
  deriving DecidableEq, Repr, Inhabited

/-- One parameter set (00_scope.md R9). `CHANNELS` is fixed at 1: the port carries one sample per write. -/
structure Params where
  /-- BASE, the bus base address of the window. -/
  base         : Nat
  textMax      : Nat
  wordMax      : Nat
  sampleRate   : Nat
  sampleBits   : Nat
  highLevel    : Nat
  lowLevel     : Nat
  partialAlign : PartialAlign
  deriving DecidableEq, Repr

/-- `WMIN(t) = 48 + M + floor((M + 15) / 16)` with `M = ceil(7*t / 20)` (00_scope.md R10). -/
def wmin (t : Nat) : Nat := 48 + (7 * t + 19) / 20 + ((7 * t + 19) / 20 + 15) / 16

/-- The value on the sink port for a level (00_scope.md R9, 44_modulator.md R189). -/
def Params.sampleValue (p : Params) : Level → Nat
  | .high => p.highLevel
  | .low => p.lowLevel

/-- BASE: OPEN (00_scope.md R9). -/
opaque Config.base : Nat

/-- SAMPLE_RATE less one: OPEN, so that SAMPLE_RATE is any integer of at least 1 (00_scope.md R9). -/
opaque Config.sampleRatePred : Nat

/-- SAMPLE_BITS less one: OPEN, so that SAMPLE_BITS is any integer of at least 1 (00_scope.md R9). -/
opaque Config.sampleBitsPred : Nat

/-- HIGH_LEVEL before reduction to SAMPLE_BITS bits: OPEN (00_scope.md R9). -/
opaque Config.highSeed : Nat

/-- The distance from HIGH_LEVEL to LOW_LEVEL before reduction: OPEN (00_scope.md R9). -/
opaque Config.lowSeed : Nat

/-- The parameter set `step` runs at: every OPEN value uninterpreted, TEXT_MAX, WORD_MAX and PARTIAL_ALIGN at the defaults
of 00_scope.md R9 (log entry 7). HIGH_LEVEL and LOW_LEVEL range over every pair of different SAMPLE_BITS-wide values. -/
def Config.params : Params where
  base         := Config.base
  textMax      := 256
  wordMax      := 256
  sampleRate   := Config.sampleRatePred + 1
  sampleBits   := Config.sampleBitsPred + 1
  highLevel    := Config.highSeed % 2 ^ (Config.sampleBitsPred + 1)
  lowLevel     := (Config.highSeed % 2 ^ (Config.sampleBitsPred + 1) + 1
                    + Config.lowSeed % (2 ^ (Config.sampleBitsPred + 1) - 1)) % 2 ^ (Config.sampleBitsPred + 1)
  partialAlign := .msb

/-- Free value: what TEXT entry `k`, not written since the `epoch`-th reset, holds (10_state.md R37; log entry 3). -/
opaque Config.unwrittenText (epoch k : Nat) : Byte

/-- Free value: what WORD entry `k`, not written since the `epoch`-th reset, holds (10_state.md R37; log entry 3). -/
opaque Config.unwrittenWord (epoch k : Nat) : Word

/-- Free value: what a result read returns while BUSY = 1 (20_memory.md R64; log entry 5). -/
opaque Config.busyRead (draw : Nat) : Word

/-- Free value: the sink's answer to a write when `State.answers` holds none (44_modulator.md R186; log entry 2). -/
opaque Config.sinkWriteAnswer (draw : Nat) : SinkAnswer

/-- Free value: whether the sink answers ok to an open or a close when `State.answers` holds no answer for it
(44_modulator.md R186; log entry 2). -/
opaque Config.sinkAccepts (draw : Nat) : Bool

/-- Free value: the working registers after a compute command (10_state.md R31 to R33; log entry 4). -/
opaque Config.leftoverWork (draw : Nat) : Work

/-- Free value: the modulator's position while MPH = IDLE (10_state.md R34; log entry 4). -/
opaque Config.leftoverPos (draw : Nat) : ModPos

end Sys2Proof
end

