-- ==== Sys2Proof/Syntax.lean ====
section
/-!
DEFINITION. The five commands of the opcode table (30_encoding.md R92). A command has no operand field: every operand
comes from an operand register (30_encoding.md R91, R94).
-/

namespace Sys2Proof

/-- One constructor per row of the opcode table (30_encoding.md R92). -/
inductive Instr where
  /-- ENC_CW (40_codeword.md R128). -/
  | encCw
  /-- ENC_ADDR (41_address.md R144). -/
  | encAddr
  /-- PACK_TEXT (42_packer.md R162). -/
  | packText
  /-- ASSEMBLE (43_assembler.md R179). -/
  | assemble
  /-- MODULATE (44_modulator.md R198). -/
  | modulate
  deriving DecidableEq, Repr

end Sys2Proof
end

