-- ==== Sys2Proof/WellFormed.lean ====
section
/-!
DEFINITION. Well-formed instructions and legal parameter sets. A command has no field, so every instruction is well-formed;
what can be ill-formed is a parameter set, which the model refuses (00_scope.md R10).
-/

namespace Sys2Proof

/-- Every command is well-formed: the CMD word has no operand field (30_encoding.md R91). -/
def Instr.wellFormed : Instr → Bool
  | .encCw | .encAddr | .packText | .assemble | .modulate => true

/-- The legal ranges of 00_scope.md R9 and the constraint of R10. -/
def Params.legal (p : Params) : Bool :=
  decide (1 ≤ p.textMax) && decide (p.textMax ≤ 256)
    && decide (wmin p.textMax ≤ p.wordMax) && decide (p.wordMax ≤ 512)
    && decide (1 ≤ p.sampleRate) && decide (1 ≤ p.sampleBits)
    && decide (p.highLevel < 2 ^ p.sampleBits) && decide (p.lowLevel < 2 ^ p.sampleBits)
    && decide (p.highLevel ≠ p.lowLevel)

end Sys2Proof
end

