-- ==== Sys2Proof/Decode.lean ====
section
/-!
DEFINITION. The decoder of a CMD word, total on all 2^32 words and rejecting by name (30_encoding.md R93, R101), and the
encoder (R92). A command word is one bus word: it has no bytes and no length to choose (R90, 20_memory.md R67).
-/

namespace Sys2Proof

/-- Why a CMD word is illegal (30_encoding.md R93). Both raise the one error ILLEGAL_CMD. -/
inductive IllegalWord where
  /-- `RSV`, bits 31:4, is not 0. -/
  | reservedBits
  /-- `RSV` is 0 and `OP` is 0x0 or 0x6..0xF. -/
  | reservedOpcode
  deriving DecidableEq, Repr

/-- What a CMD word stands for: one of the five commands, or illegal. -/
inductive Decoded where
  | command (i : Instr)
  | illegal (why : IllegalWord)
  deriving DecidableEq, Repr

/-- `OP`, bits 3:0 of a CMD word (30_encoding.md R91). -/
def opField (v : Word) : BitVec 4 := v.extractLsb' 0 4

/-- `RSV`, bits 31:4 of a CMD word (30_encoding.md R91). -/
def rsvField (v : Word) : BitVec 28 := v.extractLsb' 4 28

/-- `Decode(v)` of 30_encoding.md R101, with the reason an illegal word is rejected for (R93). -/
def decode (v : Word) : Decoded :=
  if v = 0x00000001#32 then .command .encCw
  else if v = 0x00000002#32 then .command .encAddr
  else if v = 0x00000003#32 then .command .packText
  else if v = 0x00000004#32 then .command .assemble
  else if v = 0x00000005#32 then .command .modulate
  else if rsvField v = 0#28 then .illegal .reservedOpcode
  else .illegal .reservedBits

/-- The opcode map (30_encoding.md R92). -/
def Instr.opcode : Instr → BitVec 4
  | .encCw    => 0x1#4
  | .encAddr  => 0x2#4
  | .packText => 0x3#4
  | .assemble => 0x4#4
  | .modulate => 0x5#4

/-- The command word: `RSV = 0` and the opcode in bits 3:0 (30_encoding.md R91, R92). -/
def encode (i : Instr) : Word := 0#28 ++ i.opcode

/-- The instruction read from the table's bits: the low `nbits` bits of `w`, every bit above them 0, as one CMD word. A
value with a bit above bit 31 is no command word. -/
def decodeTableWord (nbits w : Nat) : Option Instr :=
  if w % 2 ^ nbits < 2 ^ 32 then
    match decode (BitVec.ofNat 32 (w % 2 ^ nbits)) with
    | .command i => some i
    | .illegal _ => none
  else none

end Sys2Proof
end

