-- ==== Sys2Proof/Machine/State.lean ====
section
/-!
DEFINITION. The state of the block (10_state.md R20 to R37), the transitions its environment has still to make
(20_memory.md R73), the reasons a step can stop, and the state after reset (70_reset_and_hazards.md R241).
-/

namespace Sys2Proof.Machine

/-- The error codes of 60_exceptions.md R212. Codes 7 to 15 are never produced, so they have no name here. -/
inductive ErrCode where
  | none
  | illegalCmd
  | cmdBusy
  | textLenRange
  | wordCountRange
  | badRate
  | sinkFail
  deriving DecidableEq, Repr

/-- STATUS (10_state.md R25). Bits 3 and 31:12 read as zero and have no field. -/
structure Status where
  busy    : Bool
  done    : Bool
  err     : Bool
  errCode : ErrCode
  lastOp  : BitVec 4
  deriving DecidableEq, Repr

/-- MPH, the modulator's phase (10_state.md R34). -/
inductive Phase where
  | idle
  | opening
  | stream
  | closing
  deriving DecidableEq, Repr

/-- The entries of a buffer that have been written since reset, by entry number, strictly rising (log entry 9). -/
abbrev Buf (w : Nat) := List (Nat × BitVec w)

/-- The block's memory: the TEXT buffer (10_state.md R28; a `Buf 8` is a list of `Host.Cell`) and the WORD buffer (R29). -/
structure Memory where
  text : Buf 8
  word : Buf 32
  deriving DecidableEq, Repr

/-- The fifteen registers of the map (10_state.md R22), in the order of their offsets. -/
inductive Reg where
  | cmd | status | payload | addr | func | startPos | textLen | bitRate | invert
  | result | slotOffset | wordCount | position | sampleCount | info
  deriving DecidableEq, Repr

/-- What a mapped offset names (20_memory.md R63). -/
inductive Target where
  | reg (r : Reg)
  | text (k : Nat)
  | word (k : Nat)
  deriving DecidableEq, Repr

inductive AccessKind where
  | read
  | write
  deriving DecidableEq, Repr

/-- One host access: `MemRead(off, n)` or `MemWrite(off, n, v)` (20_memory.md R62). -/
inductive Access where
  | read (off n : Nat)
  | write (off n : Nat) (v : Word)
  deriving DecidableEq, Repr

/-- One transition of the interleaving (20_memory.md R73). -/
inductive Event where
  | access (a : Access)
  /-- The core's turn: one core step, if one is enabled. -/
  | core
  /-- Reset (70_reset_and_hazards.md R240). -/
  | reset
  deriving DecidableEq, Repr

/-- One answered operation on the sink port (44_modulator.md R185); `ok` is the sink's answer. -/
inductive SinkOp where
  | opened (ok : Bool)
  | wrote (sample : Level) (ok : Bool)
  | closed (ok : Bool)
  deriving DecidableEq, Repr

/-- The state. The first part is the block's (10_state.md R22 to R34); the last six fields are the model's own. -/
structure State where
  status      : Status
  payload     : Word
  addr        : Word
  func        : Word
  startPos    : Word
  textLen     : Word
  bitRate     : Word
  invert      : Word
  result      : Word
  slotOffset  : BitVec 4
  wordCount   : Word
  position    : BitVec 4
  sampleCount : Word
  mem         : Memory
  /-- CUR_OP (10_state.md R30); `none` is NONE. -/
  curOp       : Option Instr
  work        : Work
  /-- MPH (10_state.md R34). -/
  mph         : Phase
  mpos        : ModPos
  /-- The transitions still to happen, oldest first (20_memory.md R73; log entry 1). -/
  events      : List Event
  /-- The sink's answers still to come, oldest first (44_modulator.md R186; log entry 2). -/
  answers     : List SinkAnswer
  /-- The sink operations performed, newest first (00_scope.md R18; log entry 6). -/
  sinkLog     : List SinkOp
  /-- The host's reads, offset and value, newest first (00_scope.md R18; log entry 6). -/
  reads       : List (Nat × Word)
  /-- How many free values have been drawn (log entry 5). -/
  draws       : Nat
  /-- How many resets have happened since the first (log entry 3). -/
  epoch       : Nat
  deriving DecidableEq, Repr

/-- Why a step can stop with a fault. -/
inductive Fault where
  /-- Raised by a host access of a size other than 4, at a misaligned offset or at an unmapped offset (20_memory.md R62,
  60_exceptions.md R220). Safe: the spec gives the access no meaning, and no state of the block changes. -/
  | busError (off n : Nat) (kind : AccessKind)
  deriving DecidableEq, Repr

/-- Why a step can be refused. -/
inductive Refusal where
  /-- Raised by `exec` for an instruction without a meaning. Safe. No arm raises it. -/
  | notModelled (mnemonic : String)
  deriving DecidableEq, Repr

/-- STATUS after reset: 0x00000000 (70_reset_and_hazards.md R241). -/
def Status.reset : Status where
  busy    := false
  done    := false
  err     := false
  errCode := .none
  lastOp  := 0#4

/-- The state after reset (70_reset_and_hazards.md R241): every register 0, CUR_OP = NONE, MPH = IDLE, and no buffer entry
written (10_state.md R37). The working registers' zeros are a DESIGN CHOICE (log entry 4). -/
def State.reset : State where
  status      := Status.reset
  payload     := 0#32
  addr        := 0#32
  func        := 0#32
  startPos    := 0#32
  textLen     := 0#32
  bitRate     := 0#32
  invert      := 0#32
  result      := 0#32
  slotOffset  := 0#4
  wordCount   := 0#32
  position    := 0#4
  sampleCount := 0#32
  mem         := { text := [], word := [] }
  curOp       := none
  work        := { crcR := 0#31, par := 0#1, pkAcc := 0#20, pkN := 0#5, pkPos := 0#4, asmLen := 0 }
  mph         := .idle
  mpos        := { mw := 0, mb := 0, ms := 0, spbL := 0 }
  events      := []
  answers     := []
  sinkLog     := []
  reads       := []
  draws       := 0
  epoch       := 0

end Sys2Proof.Machine
end

