-- ==== Sys2Proof/Machine/Flags.lean ====
section
/-!
DEFINITION. STATUS: its 32-bit view and every way its fields change (10_state.md R25, 20_memory.md R66, 60_exceptions.md
R211 and R213).
-/

namespace Sys2Proof.Machine

/-- ERRCODE's 4 bits (60_exceptions.md R212). -/
def ErrCode.code : ErrCode → BitVec 4
  | .none           => 0#4
  | .illegalCmd     => 1#4
  | .cmdBusy        => 2#4
  | .textLenRange   => 3#4
  | .wordCountRange => 4#4
  | .badRate        => 5#4
  | .sinkFail       => 6#4

/-- STATUS as the host reads it: 31:12 zero, LASTOP 11:8, ERRCODE 7:4, bit 3 zero, ERR 2, DONE 1, BUSY 0
(10_state.md R25). -/
def Status.word (st : Status) : Word :=
  (0#20 ++ st.lastOp ++ st.errCode.code ++ 0#1 ++ BitVec.ofBool st.err ++ BitVec.ofBool st.done
    ++ BitVec.ofBool st.busy)

/-- The record an error leaves: the first error wins (60_exceptions.md R211). -/
def Status.raise (c : ErrCode) (st : Status) : Status :=
  if st.err then st else { st with err := true, errCode := c }

/-- A host write of `v` to STATUS (20_memory.md R66): bit 1 clears DONE; bit 2 clears ERR and ERRCODE. -/
def Status.writeOneToClear (v : Word) (st : Status) : Status :=
  { st with
    done    := st.done && !v.getLsbD 1
    err     := st.err && !v.getLsbD 2
    errCode := if v.getLsbD 2 then .none else st.errCode }

/-- Acceptance of a command: DONE 0, LASTOP the opcode, BUSY 1 (60_exceptions.md R213). -/
def Status.accept (i : Instr) (st : Status) : Status :=
  { st with done := false, lastOp := i.opcode, busy := true }

/-- Completion of a command: BUSY 0, DONE 1 (10_state.md R25). -/
def Status.complete (st : Status) : Status :=
  { st with busy := false, done := true }

/-- The end of a command that failed: BUSY 0, DONE as it is (60_exceptions.md R211). -/
def Status.abandon (st : Status) : Status :=
  { st with busy := false }

end Sys2Proof.Machine
end

