-- ==== Sys2Proof/Machine/Operands.lean ====
section
/-!
DEFINITION. Operand assembly (30_encoding.md R94): the bits of each operand register that a command uses, the buffer entries
it reads, and the free value an unwritten entry holds (10_state.md R37).
-/

namespace Sys2Proof.Machine

/-- The entry numbered `k`, if it has been written since reset. -/
def Buf.get? {w : Nat} : Buf w → Nat → Option (BitVec w)
  | [], _ => none
  | (j, v) :: b, k => if j = k then some v else Buf.get? b k

/-- `TEXT[k]` (10_state.md R28); an unwritten entry holds a free value (R37). -/
def State.textEntry (s : State) (k : Nat) : Byte :=
  (Buf.get? s.mem.text k).getD (Config.unwrittenText s.epoch k)

/-- `WORD[k]` (10_state.md R29); an unwritten entry holds a free value (R37). -/
def State.wordEntry (s : State) (k : Nat) : Word :=
  (Buf.get? s.mem.word k).getD (Config.unwrittenWord s.epoch k)

/-- `START_POS[3:0]` (30_encoding.md R94). -/
def State.startArg (s : State) : Nat := (s.startPos.extractLsb' 0 4).toNat

/-- `L = TEXT_LEN`, all 32 bits unsigned (30_encoding.md R94). -/
def State.textLenArg (s : State) : Nat := s.textLen.toNat

/-- `TEXT[0], …, TEXT[L-1]` (30_encoding.md R94, 42_packer.md R150). -/
def State.chars (s : State) : List Byte := (List.range s.textLenArg).map s.textEntry

/-- `N = WORD_COUNT`, all 32 bits unsigned (30_encoding.md R94). -/
def State.wordCountArg (s : State) : Nat := s.wordCount.toNat

/-- `r = BIT_RATE`, all 32 bits unsigned (30_encoding.md R94). -/
def State.bitRateArg (s : State) : Nat := s.bitRate.toNat

/-- `inv = INVERT[0]` (30_encoding.md R94). -/
def State.invertArg (s : State) : Bool := s.invert.getLsbD 0

/-- `WORD[0], …, WORD[N-1]` (30_encoding.md R94). -/
def State.words (s : State) : List Word := (List.range s.wordCountArg).map s.wordEntry

end Sys2Proof.Machine
end

