-- ==== Sys2Proof/Machine/Ops.lean ====
section
/-!
DEFINITION. The operations every command shares: writing the buffers, recording an error (60_exceptions.md R211), submitting
and accepting a command (R213), completing one, and taking an answer from the sink (44_modulator.md R186, R187). The block
has no trap entry and no return (60_exceptions.md R223, R224): recording an error is all that taking one means, and the host
clears it by a write of STATUS.
-/

namespace Sys2Proof.Machine

/-- Write entry `k`, keeping the entry numbers strictly rising. -/
def Buf.set {w : Nat} (k : Nat) (v : BitVec w) : Buf w → Buf w
  | [] => [(k, v)]
  | (j, u) :: b =>
    if k < j then (k, v) :: (j, u) :: b
    else if k = j then (k, v) :: b
    else (j, u) :: Buf.set k v b

/-- Write `vs` to the entries `k, k+1, …`. -/
def Buf.setFrom {w : Nat} (k : Nat) : List (BitVec w) → Buf w → Buf w
  | [], b => b
  | v :: vs, b => Buf.setFrom (k + 1) vs (Buf.set k v b)

/-- The entry numbers rise strictly. -/
def Buf.rising {w : Nat} : Buf w → Bool
  | [] => true
  | [_] => true
  | (j, _) :: (k, v) :: b => decide (j < k) && Buf.rising ((k, v) :: b)

/-- The canonical form of a buffer of `n` entries: strictly rising, and every entry exists. -/
def Buf.wf {w : Nat} (n : Nat) (b : Buf w) : Bool :=
  Buf.rising b && b.all fun e => decide (e.1 < n)

/-- The canonical form of memory (log entry 9). -/
def Memory.wf (p : Params) (m : Memory) : Bool :=
  Buf.wf p.textMax m.text && Buf.wf p.wordMax m.word

/-- `TEXT[k] <- v`. -/
def State.setText (k : Nat) (v : Byte) (s : State) : State :=
  { s with mem := { s.mem with text := Buf.set k v s.mem.text } }

/-- `WORD[k] <- v`. -/
def State.setWord (k : Nat) (v : Word) (s : State) : State :=
  { s with mem := { s.mem with word := Buf.set k v s.mem.word } }

/-- `WORD[j] <- ws[j]` for each `j`, and `WORD_COUNT <- |ws|`; entries from `|ws|` up keep their values
(10_state.md R29). -/
def State.putWords (ws : List Word) (s : State) : State :=
  { s with mem := { s.mem with word := Buf.setFrom 0 ws s.mem.word }
           wordCount := BitVec.ofNat 32 ws.length }

/-- `raise Err(c)` (60_exceptions.md R211): what every error does. -/
def State.raiseErr (c : ErrCode) (s : State) : State :=
  { s with status := s.status.raise c }

/-- The host's acknowledgement of an error and of DONE (60_exceptions.md R224, 20_memory.md R66). -/
def State.writeStatus (v : Word) (s : State) : State :=
  { s with status := s.status.writeOneToClear v }

/-- The common part of acceptance (60_exceptions.md R213). -/
def State.accept (i : Instr) (s : State) : State :=
  { s with status := s.status.accept i, curOp := some i }

/-- `CUR_OP <- NONE; STATUS.BUSY <- 0; STATUS.DONE <- 1`. -/
def State.complete (s : State) : State :=
  { s with status := s.status.complete, curOp := none }

/-- The working registers of a compute command are unspecified once it is over (10_state.md R31 to R33; log entry 4). -/
def State.dropWork (s : State) : State :=
  { s with work := Config.leftoverWork s.draws, draws := s.draws + 1 }

/-- `MPH <- IDLE`; MW, MB, MS and SPB_L are unspecified from then on (10_state.md R34; log entry 4). -/
def State.dropModulator (s : State) : State :=
  { s with mph := .idle, mpos := Config.leftoverPos s.draws, draws := s.draws + 1 }

/-- The end of a compute command's core step. -/
def State.finishCompute (s : State) : State := s.complete.dropWork

/-- Record an operation performed on the sink port (00_scope.md R18). -/
def State.logSink (o : SinkOp) (s : State) : State := { s with sinkLog := o :: s.sinkLog }

/-- Record a value a host read returned (00_scope.md R18). -/
def State.logRead (off : Nat) (v : Word) (s : State) : State := { s with reads := (off, v) :: s.reads }

/-- Command `i` is the running one. -/
def State.running (i : Instr) (s : State) : Bool := s.status.busy && decide (s.curOp = some i)

/-- `Accept` for the legal command `i` (60_exceptions.md R213): CMD_BUSY first, then the command's own check, then acceptance
and what `start` adds to it. -/
def submit (i : Instr) (check : State → Option ErrCode) (start : State → State) (s : State) :
    Host.Outcome State Fault Refusal :=
  if s.status.busy then .next (s.raiseErr .cmdBusy)
  else match check s with
    | some c => .next (s.raiseErr c)
    | none => .next (start (s.accept i))

/-- A command with no operand check (40_codeword.md R128, 41_address.md R144). -/
def noCheck (_ : State) : Option ErrCode := none

/-- TEXT_LEN_RANGE: `TEXT_LEN > TEXT_MAX`, all 32 bits unsigned (60_exceptions.md R216). -/
def textLenCheck (p : Params) (s : State) : Option ErrCode :=
  if p.textMax < s.textLenArg then some .textLenRange else none

/-- The transition of command `i` that is due: its core step while it is the running command, and otherwise what submitting
it does (log entry 8). -/
def perform (i : Instr) (check : State → Option ErrCode) (start : State → State)
    (coreStep : State → Host.Outcome State Fault Refusal) (s : State) : Host.Outcome State Fault Refusal :=
  if s.running i then coreStep s else submit i check start s

/-- The sink's answer to an open or a close, which is never held (44_modulator.md R187): the first answer of `answers` that
is not `held`, and a free value where there is none. -/
def State.takeSettled (s : State) : Bool × State :=
  match s.answers.dropWhile (· = .held) with
  | a :: as => (decide (a = .ok), { s with answers := as })
  | [] => (Config.sinkAccepts s.draws, { s with answers := [], draws := s.draws + 1 })

/-- The sink's answer to a write (44_modulator.md R186, R187): the first of `answers`, and a free value where there is
none. -/
def State.takeWriteAnswer (s : State) : SinkAnswer × State :=
  match s.answers with
  | a :: as => (a, { s with answers := as })
  | [] => (Config.sinkWriteAnswer s.draws, { s with draws := s.draws + 1 })

end Sys2Proof.Machine
end

