-- ==== Sys2Proof/Machine/Codeword.lean ====
section
/-!
DEFINITION. The CRC generator, the parity accumulator and ENC_CW (40_codeword.md).
-/

namespace Sys2Proof.Machine

/-- `p <- arg & 0x1FFFFF` (40_codeword.md R120). -/
def payloadOf (arg : Word) : Payload := (arg &&& 0x1FFFFF#32).setWidth 21

/-- CRC_R as it starts: the payload shifted up by 10 (40_codeword.md R121). -/
def crcStart (p : Payload) : BitVec 31 := p.setWidth 31 <<< 10

/-- Step `i` of the division (40_codeword.md R122). -/
def crcStep (r : BitVec 31) (i : Nat) : BitVec 31 :=
  if r.getLsbD (30 - i) then r ^^^ (gen.setWidth 31 <<< (20 - i)) else r

/-- CRC_R after the 21 steps `i = 0, …, 20`, in that order (40_codeword.md R122). -/
def crcDivide (r : BitVec 31) : BitVec 31 := (List.range 21).foldl crcStep r

/-- The CRC: the low 10 bits after all steps (40_codeword.md R123). -/
def crcOf (p : Payload) : BitVec 10 := (crcDivide (crcStart p)).extractLsb' 0 10

/-- PAR: the XOR fold over the 31 bits of `p ++ crc`, `j = 30` down to 0 (40_codeword.md R124). -/
def parityOf (v : BitVec 31) : Bool :=
  (List.range 31).foldl (fun par j => par ^^ v.getLsbD (30 - j)) false

/-- The codeword is the concatenation of payload (31:11), CRC (10:1) and parity (0) (40_codeword.md R125, 30_encoding.md
R95). -/
def codeword (p : Payload) (crc : BitVec 10) (par : Bool) : Word := p ++ crc ++ BitVec.ofBool par

/-- `ENCODE(arg)` (40_codeword.md R126). -/
def encodeCw (arg : Word) : Word :=
  codeword (payloadOf arg) (crcOf (payloadOf arg)) (parityOf (payloadOf arg ++ crcOf (payloadOf arg)))

/-- ENC_CW's core step (40_codeword.md R128). -/
def encCwCore (s : State) : Host.Outcome State Fault Refusal :=
  .next { s with result := encodeCw s.payload }.finishCompute

/-- ENC_CW (40_codeword.md R128). -/
def execEncCw (s : State) : Host.Outcome State Fault Refusal :=
  perform .encCw noCheck id encCwCore s

end Sys2Proof.Machine
end

