-- ==== Sys2Proof/Machine/Address.lean ====
section
/-!
DEFINITION. The address-to-slot encoder and ENC_ADDR (41_address.md).
-/

namespace Sys2Proof.Machine

/-- The 20 data bits of an address codeword (41_address.md R140). -/
def addressData (a f : Word) : Word := (((a >>> 3) <<< 2) ||| (f &&& 0x3#32)) &&& 0xFFFFF#32

/-- The payload of an address codeword: the type flag is 0 (41_address.md R140). -/
def addressPayload (a f : Word) : Word := flagAddr ||| addressData a f

/-- The slot: the low 3 bits of the address (41_address.md R141). -/
def slotOf (a : Word) : BitVec 3 := a.extractLsb' 0 3

/-- The slot offset: `slot * 2`, 0..14 (41_address.md R141). -/
def slotOffsetOf (a : Word) : BitVec 4 := (slotOf a).setWidth 4 * 2#4

/-- `ENCODE_ADDRESS(A, F)` (41_address.md R142). -/
def encodeAddress (a f : Word) : Word × BitVec 4 := (encodeCw (addressPayload a f), slotOffsetOf a)

/-- ENC_ADDR's core step (41_address.md R144). -/
def encAddrCore (s : State) : Host.Outcome State Fault Refusal :=
  .next { s with result := (encodeAddress s.addr s.func).1
                 slotOffset := (encodeAddress s.addr s.func).2 }.finishCompute

/-- ENC_ADDR (41_address.md R144). -/
def execEncAddr (s : State) : Host.Outcome State Fault Refusal :=
  perform .encAddr noCheck id encAddrCore s

end Sys2Proof.Machine
end

