-- ==== Sys2Proof/Machine/Packer.lean ====
section
/-!
DEFINITION. The word packer with its frame synchronizer, and PACK_TEXT (42_packer.md).
-/

namespace Sys2Proof.Machine

/-- The packer's state inside its core step: PK_ACC, PK_N, PK_POS and the output so far (42_packer.md R151). -/
structure Packer where
  acc : Data
  n   : Nat
  pos : Nat
  out : List Word
  deriving DecidableEq, Repr

/-- The initial state (42_packer.md R151). -/
def Packer.start (s : Nat) : Packer := { acc := 0#20, n := 0, pos := s, out := [] }

/-- `emit(w)`. -/
def Packer.emit (w : Word) (k : Packer) : Packer := { k with out := k.out ++ [w] }

/-- `advance()`, the frame synchronizer: SYNC at every batch boundary (42_packer.md R156). -/
def Packer.advance (k : Packer) : Packer :=
  if k.pos + 1 = batch then { k.emit syncWord with pos := 0 } else { k with pos := k.pos + 1 }

/-- `emit_msg(d)` (42_packer.md R155). -/
def Packer.emitMsg (d : Data) (k : Packer) : Packer :=
  (k.emit (encodeCw (flagMsg ||| d.setWidth 32))).advance

/-- The word-full check (42_packer.md R154). -/
def Packer.checkFull (k : Packer) : Packer :=
  if k.n = bitsPerWord then { k.emitMsg k.acc with acc := 0#20, n := 0 } else k

/-- One bit into the accumulator, then the word-full check (42_packer.md R153). -/
def Packer.pushBit (k : Packer) (b : Bool) : Packer :=
  { k with acc := (k.acc <<< 1) ||| (BitVec.ofBool b).setWidth 20, n := k.n + 1 }.checkFull

/-- The bits of a character: bits 0 to 6, least significant first; bit 7 is ignored (42_packer.md R152, R153). -/
def charBits (c : Byte) : List Bool := (List.range bitsPerChar).map c.getLsbD

/-- One character (42_packer.md R153). -/
def Packer.pushChar (k : Packer) (c : Byte) : Packer := (charBits c).foldl Packer.pushBit k

/-- `align(acc, n)` (42_packer.md R158). -/
def align : PartialAlign → Data → Nat → Data
  | .msb, acc, n => acc <<< (bitsPerWord - n)
  | .lsb, acc, _ => acc

/-- The partial word at the end of the text, if the accumulator holds a bit (42_packer.md R157). -/
def Packer.finish (a : PartialAlign) (k : Packer) : Packer :=
  if 0 < k.n then k.emitMsg (align a k.acc k.n) else k

/-- `PACK(s, chars)`: the output words and the final position (42_packer.md R160). -/
def pack (a : PartialAlign) (s : Nat) (chars : List Byte) : List Word × Nat :=
  (((chars.foldl Packer.pushChar (Packer.start s)).finish a).out,
   ((chars.foldl Packer.pushChar (Packer.start s)).finish a).pos)

/-- PACK_TEXT's core step (42_packer.md R162). -/
def packTextCore (p : Params) (s : State) : Host.Outcome State Fault Refusal :=
  .next { s.putWords (pack p.partialAlign s.startArg s.chars).1 with
          position := BitVec.ofNat 4 (pack p.partialAlign s.startArg s.chars).2 }.finishCompute

/-- PACK_TEXT at a parameter set (42_packer.md R162). -/
def packText (p : Params) (s : State) : Host.Outcome State Fault Refusal :=
  perform .packText (textLenCheck p) id (packTextCore p) s

/-- PACK_TEXT (42_packer.md R162). -/
def execPackText (s : State) : Host.Outcome State Fault Refusal := packText Config.params s

end Sys2Proof.Machine
end

