-- ==== Sys2Proof/Machine/Assembler.lean ====
section
/-!
DEFINITION. The transmission assembler and ASSEMBLE (43_assembler.md).
-/

namespace Sys2Proof.Machine

/-- Steps 1 to 4: the preamble, SYNC, the slot's idle words and the address codeword (43_assembler.md R171 to R174). -/
def assembleHead (a f : Word) : List Word :=
  List.replicate preambleLen preambleWord ++ [syncWord]
    ++ List.replicate (encodeAddress a f).2.toNat idleWord ++ [(encodeAddress a f).1]

/-- Step 5: the packer, from the position after the address word (43_assembler.md R175). -/
def assemblePack (al : PartialAlign) (a f : Word) (chars : List Byte) : List Word × Nat :=
  pack al ((encodeAddress a f).2.toNat + 1) chars

/-- Step 6: how many idle words end a sequence of `n` words, `max(0, remainder - 1)` (43_assembler.md R176). -/
def trailingPad (n : Nat) : Nat := (n - preambleLen) % 16 - 1

/-- The words before the trailing pad: steps 1 to 5 (43_assembler.md R171 to R175). -/
def assembleBody (al : PartialAlign) (a f : Word) (chars : List Byte) : List Word :=
  assembleHead a f ++ (assemblePack al a f chars).1

/-- The whole transmission (43_assembler.md R170 to R176). -/
def assembleWords (al : PartialAlign) (a f : Word) (chars : List Byte) : List Word :=
  assembleBody al a f chars ++ List.replicate (trailingPad (assembleBody al a f chars).length) idleWord

/-- ASSEMBLE's core step (43_assembler.md R177, R179). -/
def assembleCore (p : Params) (s : State) : Host.Outcome State Fault Refusal :=
  .next { s.putWords (assembleWords p.partialAlign s.addr s.func s.chars) with
          result := (encodeAddress s.addr s.func).1
          slotOffset := (encodeAddress s.addr s.func).2
          position := BitVec.ofNat 4 (assemblePack p.partialAlign s.addr s.func s.chars).2 }.finishCompute

/-- ASSEMBLE at a parameter set (43_assembler.md R179). -/
def assemble (p : Params) (s : State) : Host.Outcome State Fault Refusal :=
  perform .assemble (textLenCheck p) id (assembleCore p) s

/-- ASSEMBLE (43_assembler.md R179). -/
def execAssemble (s : State) : Host.Outcome State Fault Refusal := assemble Config.params s

end Sys2Proof.Machine
end

