-- ==== Sys2Proof/Machine/Modulator.lean ====
section
/-!
DEFINITION. The two-level modulator, the sink port and MODULATE (44_modulator.md).
-/

namespace Sys2Proof.Machine

/-- The level of one bit (44_modulator.md R189). -/
def levelOf (bit inv : Bool) : Level := if bit ^^ inv then .high else .low

/-- `SPB = floor(SAMPLE_RATE / r)` (44_modulator.md R188). -/
def samplesPerBit (p : Params) (r : Nat) : Nat := p.sampleRate / r

/-- MODULATE's checks, in order: WORD_COUNT_RANGE, then BAD_RATE (44_modulator.md R191, 60_exceptions.md R217, R218). -/
def modulateCheck (p : Params) (s : State) : Option ErrCode :=
  if p.wordMax < s.wordCountArg then some .wordCountRange
  else if s.bitRateArg = 0 then some .badRate
  else if samplesPerBit p s.bitRateArg = 0 then some .badRate
  else none

/-- What MODULATE adds to acceptance: SPB_L latched, SAMPLE_COUNT 0, MPH = OPEN (44_modulator.md R191). -/
def modulateStart (p : Params) (s : State) : State :=
  { s with mpos := { s.mpos with spbL := samplesPerBit p s.bitRateArg }
           sampleCount := 0#32
           mph := .opening }

/-- A `fail` answer: MODULATE is abandoned and SINK_FAIL recorded; DONE stays 0 (44_modulator.md R195). -/
def State.sinkFail (s : State) : State :=
  { s with status := (s.status.raise .sinkFail).abandon, curOp := none }.dropModulator

/-- The OPEN step (44_modulator.md R192). -/
def openStep (s : State) : State :=
  let t := s.takeSettled.2.logSink (.opened s.takeSettled.1)
  if s.takeSettled.1 then
    if s.wordCountArg = 0 then { t with mph := .closing }
    else { t with mph := .stream, mpos := { t.mpos with mw := 0, mb := 31, ms := 0 } }
  else t.sinkFail

/-- The sample the next SinkWrite carries (44_modulator.md R193). -/
def State.currentLevel (s : State) : Level :=
  levelOf ((s.wordEntry s.mpos.mw).getLsbD s.mpos.mb) s.invertArg

/-- The position after one accepted sample (44_modulator.md R193). -/
def nextPos (m : ModPos) : ModPos :=
  if m.ms + 1 = m.spbL then
    if m.mb = 0 then { m with ms := 0, mb := 31, mw := m.mw + 1 }
    else { m with ms := 0, mb := m.mb - 1 }
  else { m with ms := m.ms + 1 }

/-- An accepted sample: SAMPLE_COUNT and the position advance; after the last sample MPH = CLOSE (44_modulator.md R193,
R196). -/
def State.sampleAccepted (s : State) : State :=
  { s with sampleCount := s.sampleCount + 1#32
           mpos := nextPos s.mpos
           mph := if s.mpos.ms + 1 = s.mpos.spbL ∧ (nextPos s.mpos).mw = s.wordCountArg then .closing else s.mph }

/-- The STREAM step (44_modulator.md R193). While the write is held nothing moves but the sink's answers (R187). -/
def streamStep (s : State) : State :=
  match s.takeWriteAnswer.1 with
  | .held => s.takeWriteAnswer.2
  | .fail => (s.takeWriteAnswer.2.logSink (.wrote s.currentLevel false)).sinkFail
  | .ok => (s.takeWriteAnswer.2.logSink (.wrote s.currentLevel true)).sampleAccepted

/-- The CLOSE step (44_modulator.md R194). -/
def closeStep (s : State) : State :=
  let t := s.takeSettled.2.logSink (.closed s.takeSettled.1)
  if s.takeSettled.1 then t.complete.dropModulator else t.sinkFail

/-- MODULATE's core step (44_modulator.md R192 to R194). With MPH = IDLE no step is enabled (10_state.md R34). -/
def modulateCore (s : State) : Host.Outcome State Fault Refusal :=
  match s.mph with
  | .idle => .next s
  | .opening => .next (openStep s)
  | .stream => .next (streamStep s)
  | .closing => .next (closeStep s)

/-- MODULATE at a parameter set (44_modulator.md R198). -/
def modulate (p : Params) (s : State) : Host.Outcome State Fault Refusal :=
  perform .modulate (modulateCheck p) (modulateStart p) modulateCore s

/-- MODULATE (44_modulator.md R198). -/
def execModulate (s : State) : Host.Outcome State Fault Refusal := modulate Config.params s

end Sys2Proof.Machine
end

