-- ==== Sys2Proof/Machine/Bus.lean ====
section
/-!
DEFINITION. The host bus (20_memory.md R60 to R66), reset (70_reset_and_hazards.md R240 to R242) and the one interleaving of
transitions (20_memory.md R73), for any parameter set.
-/

namespace Sys2Proof.Machine

/-- The offset of a register (10_state.md R22). -/
def Reg.offset : Reg → Nat
  | .cmd         => 0x000
  | .status      => 0x004
  | .payload     => 0x008
  | .addr        => 0x00C
  | .func        => 0x010
  | .startPos    => 0x014
  | .textLen     => 0x018
  | .bitRate     => 0x01C
  | .invert      => 0x020
  | .result      => 0x024
  | .slotOffset  => 0x028
  | .wordCount   => 0x02C
  | .position    => 0x030
  | .sampleCount => 0x034
  | .info        => 0x038

/-- The register at a word offset, if there is one (10_state.md R22). -/
def Reg.at? : Nat → Option Reg
  | 0x000 => some .cmd
  | 0x004 => some .status
  | 0x008 => some .payload
  | 0x00C => some .addr
  | 0x010 => some .func
  | 0x014 => some .startPos
  | 0x018 => some .textLen
  | 0x01C => some .bitRate
  | 0x020 => some .invert
  | 0x024 => some .result
  | 0x028 => some .slotOffset
  | 0x02C => some .wordCount
  | 0x030 => some .position
  | 0x034 => some .sampleCount
  | 0x038 => some .info
  | _ => none

/-- The offset a target stands at (10_state.md R22). -/
def Target.offset : Target → Nat
  | .reg r => r.offset
  | .text k => 0x400 + 4 * k
  | .word k => 0x800 + 4 * k

/-- What a 4-byte access at offset `off` reaches: `none` where the offset is misaligned or not `Mapped`
(20_memory.md R62, R63). -/
def target? (p : Params) (off : Nat) : Option Target :=
  if off % 4 ≠ 0 then none
  else if off < 0x400 then (Reg.at? off).map .reg
  else if off < 0x800 then
    if (off - 0x400) / 4 < p.textMax then some (.text ((off - 0x400) / 4)) else none
  else if (off - 0x800) / 4 < p.wordMax then some (.word ((off - 0x800) / 4)) else none

/-- The offset in the window of a bus address, if the window holds it (20_memory.md R60; log entry 11). -/
def windowOffset (p : Params) (busAddr : Nat) : Option Nat :=
  if p.base ≤ busAddr ∧ busAddr < p.base + 0x1000 then some (busAddr - p.base) else none

/-- INFO: WORD_MAX in 31:16, TEXT_MAX in 15:0 (10_state.md R27). -/
def infoWord (p : Params) : Word := BitVec.ofNat 16 p.wordMax ++ BitVec.ofNat 16 p.textMax

/-- The value a target holds (20_memory.md R64). -/
def State.held (p : Params) (s : State) : Target → Word
  | .reg .cmd         => 0#32
  | .reg .status      => s.status.word
  | .reg .payload     => s.payload
  | .reg .addr        => s.addr
  | .reg .func        => s.func
  | .reg .startPos    => s.startPos
  | .reg .textLen     => s.textLen
  | .reg .bitRate     => s.bitRate
  | .reg .invert      => s.invert
  | .reg .result      => s.result
  | .reg .slotOffset  => s.slotOffset.setWidth 32
  | .reg .wordCount   => s.wordCount
  | .reg .position    => s.position.setWidth 32
  | .reg .sampleCount => s.sampleCount
  | .reg .info        => infoWord p
  | .text k           => (s.textEntry k).setWidth 32
  | .word k           => s.wordEntry k

/-- The targets whose reads are unspecified while BUSY = 1 (20_memory.md R64). -/
def Target.unstable : Target → Bool
  | .reg .result | .reg .slotOffset | .reg .position | .reg .sampleCount | .reg .wordCount | .word _ => true
  | .reg .cmd | .reg .status | .reg .payload | .reg .addr | .reg .func | .reg .startPos | .reg .textLen
  | .reg .bitRate | .reg .invert | .reg .info | .text _ => false

/-- A read of a mapped target: the value held, or a free value for a result while BUSY = 1 (20_memory.md R64). -/
def readTarget (p : Params) (off : Nat) (t : Target) (s : State) : State :=
  if s.status.busy && t.unstable then
    { s.logRead off (Config.busyRead s.draws) with draws := s.draws + 1 }
  else s.logRead off (s.held p t)

/-- What a host write stores while BUSY = 0 (20_memory.md R65). CMD and STATUS have their own effects. -/
def storeTarget (v : Word) (t : Target) (s : State) : State :=
  match t with
  | .reg .payload   => { s with payload := v }
  | .reg .addr      => { s with addr := v }
  | .reg .func      => { s with func := v }
  | .reg .startPos  => { s with startPos := v }
  | .reg .textLen   => { s with textLen := v }
  | .reg .bitRate   => { s with bitRate := v }
  | .reg .invert    => { s with invert := v }
  | .reg .wordCount => { s with wordCount := v }
  | .text k         => s.setText k (v.extractLsb' 0 8)
  | .word k         => s.setWord k v
  | .reg .cmd | .reg .status | .reg .result | .reg .slotOffset | .reg .position | .reg .sampleCount | .reg .info => s

/-- A host write of `v` to CMD (60_exceptions.md R213): CMD_BUSY first, then ILLEGAL_CMD, then the command's own acceptance,
which is `run`'s at an idle block. -/
def submitWord (run : Instr → State → Host.Outcome State Fault Refusal) (v : Word) (s : State) :
    Host.Outcome State Fault Refusal :=
  if s.status.busy then .next (s.raiseErr .cmdBusy)
  else match decode v with
    | .illegal _ => .next (s.raiseErr .illegalCmd)
    | .command i => run i s

/-- `WriteEffect(off, v)` on a mapped target (20_memory.md R65). -/
def writeTarget (run : Instr → State → Host.Outcome State Fault Refusal) (v : Word) (t : Target) (s : State) :
    Host.Outcome State Fault Refusal :=
  match t with
  | .reg .cmd => submitWord run v s
  | .reg .status => .next (s.writeStatus v)
  | _ => if s.status.busy then .next s else .next (storeTarget v t s)

/-- `MemRead` and `MemWrite` (20_memory.md R62): BusError where the size is not 4, the offset is misaligned or it is not
mapped. -/
def busAccess (p : Params) (run : Instr → State → Host.Outcome State Fault Refusal) (a : Access) (s : State) :
    Host.Outcome State Fault Refusal :=
  match a with
  | .read off n =>
    match if n = 4 then target? p off else none with
    | some t => .next (readTarget p off t s)
    | none => .fault (.busError off n .read)
  | .write off n v =>
    match if n = 4 then target? p off else none with
    | some t => writeTarget run v t s
    | none => .fault (.busError off n .write)

/-- The reset transition (70_reset_and_hazards.md R241, R242): every register at its reset value, the buffers' entries and
the working registers free values from then on. What was delivered to the sink and to the host stays delivered, and the
environment's inputs stay to come. -/
def resetBlock (s : State) : State :=
  { State.reset with
    work    := Config.leftoverWork s.draws
    mpos    := Config.leftoverPos s.draws
    events  := s.events
    answers := s.answers
    sinkLog := s.sinkLog
    reads   := s.reads
    draws   := s.draws + 1
    epoch   := s.epoch + 1 }

/-- The core's turn: a step of the running command; an idle block takes no step (60_exceptions.md R232). -/
def coreTurn (run : Instr → State → Host.Outcome State Fault Refusal) (s : State) : Host.Outcome State Fault Refusal :=
  if s.status.busy then
    match s.curOp with
    | some i => run i s
    | none => .next s
  else .next s

/-- One transition of the interleaving (20_memory.md R73): the next of `events`, or the core's turn where none is scheduled
(70_reset_and_hazards.md R253). -/
def transition (p : Params) (run : Instr → State → Host.Outcome State Fault Refusal) (s : State) :
    Host.Outcome State Fault Refusal :=
  match s.events with
  | [] => coreTurn run s
  | .core :: es => coreTurn run { s with events := es }
  | .reset :: es => .next (resetBlock { s with events := es })
  | .access a :: es => busAccess p run a { s with events := es }

/-- The meanings at any parameter set; `exec` is this at `Config.params`. -/
def execWith (p : Params) (i : Instr) (s : State) : Host.Outcome State Fault Refusal :=
  match i with
  | .encCw => execEncCw s
  | .encAddr => execEncAddr s
  | .packText => packText p s
  | .assemble => assemble p s
  | .modulate => modulate p s

/-- The machine of a parameter set, refused where the set is illegal (00_scope.md R10). -/
def blockFor? (p : Params) : Option Host.Core :=
  if p.legal then
    some { State := State, Fault := Fault, Refusal := Refusal, step := transition p (execWith p), reset := State.reset }
  else none

end Sys2Proof.Machine
end

