-- ==== Sys2Proof/Machine/Dispatch.lean ====
section
/-!
DEFINITION. One arm per command.
-/

namespace Sys2Proof.Machine

def exec (i : Instr) (s : State) : Host.Outcome State Fault Refusal :=
  match i with
  | .encCw => Sys2Proof.Machine.execEncCw s
  | .encAddr => Sys2Proof.Machine.execEncAddr s
  | .packText => Sys2Proof.Machine.execPackText s
  | .assemble => Sys2Proof.Machine.execAssemble s
  | .modulate => Sys2Proof.Machine.execModulate s

end Sys2Proof.Machine
end

