-- ==== Sys2Proof/Machine/Step.lean ====
section
/-!
DEFINITION. One step of the machine: one transition of the interleaving of 20_memory.md R73, every command by `exec`.
-/

namespace Sys2Proof.Machine

/-- One step. -/
def step (s : State) : Host.Outcome State Fault Refusal := transition Config.params exec s

/-- `s` with a host write of the command word to CMD as its next transition: a CMD write is the only way to start a command
(10_state.md R26; log entry 1). -/
def State.withFetchWord (s : State) (nbits w : Nat) : State :=
  { s with events := .access (.write 0x000 4 (BitVec.ofNat 32 (w % 2 ^ nbits))) :: s.events }

end Sys2Proof.Machine
end

