-- ==== Sys2Proof/Machine/HostNotation.lean ====
section
/-!
DEFINITION. The host program notation of 30_encoding.md R103 as bus accesses. `WAIT` is a loop in the host: it repeats
`RD STATUS` until bit 0 of the value is 0, so it is given by the read and by the test that ends it.
-/

namespace Sys2Proof.Machine

/-- The forms of 30_encoding.md R103 that are one or more bus transactions. -/
inductive HostForm where
  /-- `WR <reg>, <imm32>` -/
  | wr (r : Reg) (v : Word)
  /-- `WR TEXT[k], <imm8>` -/
  | wrText (k : Nat) (v : Byte)
  /-- `WR WORD[k], <imm32>` -/
  | wrWord (k : Nat) (v : Word)
  /-- `RD <reg>`, `RD TEXT[k]`, `RD WORD[k]` -/
  | rd (t : Target)
  /-- `CMD <mnemonic>` -/
  | cmd (i : Instr)
  /-- `CLR` -/
  | clr
  /-- `WRTEXT "…"` -/
  | wrTextAll (cs : List Byte)
  deriving DecidableEq, Repr

/-- `WR TEXT[k], c` for each of `cs` from entry `k` on. -/
def textWrites (k : Nat) : List Byte → List Access
  | [] => []
  | c :: cs => .write (0x400 + 4 * k) 4 (c.setWidth 32) :: textWrites (k + 1) cs

/-- The transactions of a form (30_encoding.md R103). -/
def HostForm.accesses : HostForm → List Access
  | .wr r v => [.write r.offset 4 v]
  | .wrText k v => [.write (0x400 + 4 * k) 4 (v.setWidth 32)]
  | .wrWord k v => [.write (0x800 + 4 * k) 4 v]
  | .rd t => [.read t.offset 4]
  | .cmd i => [.write Reg.cmd.offset 4 (encode i)]
  | .clr => [.write Reg.status.offset 4 0x00000006#32]
  | .wrTextAll cs => textWrites 0 cs ++ [.write Reg.textLen.offset 4 (BitVec.ofNat 32 cs.length)]

/-- The transitions of a host program with no core turn between its accesses. -/
def hostEvents (fs : List HostForm) : List Event := fs.flatMap fun f => f.accesses.map .access

/-- `WAIT` ends at a STATUS read whose bit 0 is 0 (30_encoding.md R103). -/
def waitEnds (statusRead : Word) : Bool := !statusRead.getLsbD 0

end Sys2Proof.Machine
end

