-- ==== Sys2Proof/Safety.lean ====
section
/-!
DEFINITION. What holds in every state of a safe run: the relations between the fields of State that the spec states, for any
parameter set.
-/

namespace Sys2Proof.Machine

/-- `popcount(v)` (00_scope.md R12). -/
def popcount {n : Nat} (v : BitVec n) : Nat := (List.range n).countP fun i => v.getLsbD i

/-- The polynomial over GF(2) whose coefficients are the bits of `v` (40_codeword.md R127). -/
noncomputable def gf2Poly {n : Nat} (v : BitVec n) : Polynomial (ZMod 2) :=
  ∑ i ∈ Finset.range n, if v.getLsbD i then Polynomial.X ^ i else 0

/-- The data bits of a codeword in the order they are sent, DATA bit 19 (bit 30 of the word) first (30_encoding.md R97). -/
def dataBits (w : Word) : List Bool := (List.range 20).map fun i => w.getLsbD (30 - i)

/-- `M = ceil(7L / 20)`, the message codewords of `L` characters (42_packer.md R161). -/
def messageWords (l : Nat) : Nat := (7 * l + 19) / 20

/-- The sink operations that play `w`, oldest first: bit 31 down to 0, each `spb` times, every one accepted
(44_modulator.md R190). -/
def wordWrites (spb : Nat) (inv : Bool) (w : Word) : List SinkOp :=
  (List.range 32).flatMap fun b => List.replicate spb (.wrote (levelOf (w.getLsbD (31 - b)) inv) true)

/-- How many samples the sink has accepted when MODULATE stands at position `m` (44_modulator.md R193, R196). -/
def samplesDone (m : ModPos) : Nat := (32 * m.mw + (31 - m.mb)) * m.spbL + m.ms

/-- STATUS agrees with itself and with CUR_OP (10_state.md R25, R30). -/
structure StatusInv (s : State) : Prop where
  /-- `STATUS.BUSY = 1` if and only if `CUR_OP != NONE` (10_state.md R30). -/
  busy_iff : s.status.busy = true ↔ s.curOp ≠ none
  /-- ERRCODE is 0 exactly when ERR = 0 (10_state.md R25). -/
  err_iff : s.status.err = true ↔ s.status.errCode ≠ .none
  /-- While a command runs DONE is 0 (60_exceptions.md R213). -/
  done_idle : s.status.busy = true → s.status.done = false
  /-- While a command runs LASTOP is its opcode (60_exceptions.md R213). -/
  lastOp_running : ∀ i, s.curOp = some i → s.status.lastOp = i.opcode
  /-- LASTOP is 0 or the opcode of a command (10_state.md R25). -/
  lastOp_legal : s.status.lastOp = 0#4 ∨ ∃ i : Instr, s.status.lastOp = i.opcode

/-- The checks of acceptance still hold while the command runs (10_state.md R30, 60_exceptions.md R213). -/
structure OperandInv (p : Params) (s : State) : Prop where
  text_len : s.curOp = some .packText ∨ s.curOp = some .assemble → s.textLen.toNat ≤ p.textMax
  word_count : s.curOp = some .modulate → s.wordCount.toNat ≤ p.wordMax
  rate : s.curOp = some .modulate →
    s.bitRate.toNat ≠ 0 ∧ s.mpos.spbL = p.sampleRate / s.bitRate.toNat ∧ 1 ≤ s.mpos.spbL

/-- The modulator's phase, position and sample count (10_state.md R34, 44_modulator.md R192 to R196). -/
structure ModulatorInv (s : State) : Prop where
  /-- `MPH != IDLE` if and only if `CUR_OP = MODULATE` (10_state.md R34). -/
  phase_iff : s.mph ≠ .idle ↔ s.curOp = some .modulate
  /-- In STREAM the position is in range. -/
  stream_range : s.mph = .stream → s.mpos.mw < s.wordCount.toNat ∧ s.mpos.mb ≤ 31 ∧ s.mpos.ms < s.mpos.spbL
  count_open : s.mph = .opening → s.sampleCount = 0#32
  count_stream : s.mph = .stream → s.sampleCount = BitVec.ofNat 32 (samplesDone s.mpos)
  count_close : s.mph = .closing → s.sampleCount = BitVec.ofNat 32 (32 * s.wordCount.toNat * s.mpos.spbL)

/-- The invariant of the machine at a parameter set. -/
structure Inv (p : Params) (s : State) : Prop where
  status : StatusInv s
  operands : OperandInv p s
  modulator : ModulatorInv s
  /-- The buffers keep their canonical form and hold no entry past TEXT_MAX or WORD_MAX (00_scope.md R10). -/
  memory : s.mem.wf p = true
  /-- SLOT_OFFSET is 0, 2, …, 14 (41_address.md R143). -/
  slot_even : s.slotOffset.getLsbD 0 = false

end Sys2Proof.Machine
end

