-- ==== Sys2Proof/Certificates/Slice0/Obligations.lean ====
section
/-!
DEFINITION. The statements for the provers. Each cites the rule of spec/ it formalises in its docstring.
-/

open Sys2Proof Sys2Proof.Machine

/-! ## Encoding -/

/-- The decoder of 30_encoding.md R101: five words are commands and every other word is illegal. -/
def Obligations.DecoderReadsFiveWords : Prop :=
  ∀ v : Word,
    (decode v = .command .encCw ↔ v = 0x00000001#32) ∧
    (decode v = .command .encAddr ↔ v = 0x00000002#32) ∧
    (decode v = .command .packText ↔ v = 0x00000003#32) ∧
    (decode v = .command .assemble ↔ v = 0x00000004#32) ∧
    (decode v = .command .modulate ↔ v = 0x00000005#32) ∧
    ((∃ why, decode v = .illegal why) ↔
      v ≠ 0x00000001#32 ∧ v ≠ 0x00000002#32 ∧ v ≠ 0x00000003#32 ∧ v ≠ 0x00000004#32 ∧ v ≠ 0x00000005#32)

/-- The opcode map of 30_encoding.md R92: a word is a command exactly when bits 31:4 are 0 and bits 3:0 are 1 to 5, and the
whole-word encodings. -/
def Obligations.LegalCommandWords : Prop :=
  (∀ v : Word, (∃ i, decode v = .command i) ↔
    v.extractLsb' 4 28 = 0#28 ∧ 1 ≤ (v.extractLsb' 0 4).toNat ∧ (v.extractLsb' 0 4).toNat ≤ 5) ∧
  (∀ i, decode (encode i) = .command i) ∧
  encode .encCw = 0x00000001#32 ∧ encode .encAddr = 0x00000002#32 ∧ encode .packText = 0x00000003#32 ∧
  encode .assemble = 0x00000004#32 ∧ encode .modulate = 0x00000005#32

/-- Decode and encode agree in both directions, through the table's numbering too (30_encoding.md R91, R92). -/
def Obligations.DecodeEncodeAgree : Prop :=
  (∀ i : Instr, i.wellFormed = true → decode (encode i) = .command i ∧
    decodeTableWord 32 (encode i).toNat = some i) ∧
  (∀ (v : Word) (i : Instr), decode v = .command i → encode i = v)

/-- The steps that run a decoded command: the next transition is a CMD write at an idle block, and the command is the
decoded one; `withFetchWord` places such a write (10_state.md R26). -/
def Obligations.SubmittedCommandRuns : Prop :=
  (∀ (s : State) (es : List Event) (v : Word) (i : Instr),
    s.events = .access (.write 0x000 4 v) :: es → s.status.busy = false → decode v = .command i →
      step s = exec i { s with events := es }) ∧
  (∀ (s : State) (i : Instr), s.status.busy = false →
    step (s.withFetchWord 32 (encode i).toNat) = exec i s)

/-- The core's turn runs the accepted command, whether scheduled or left to it (60_exceptions.md R213); an idle block takes
no step (R232). That the core moves where nothing is scheduled is the model's choice (log entry 1). -/
def Obligations.AcceptedCommandRuns : Prop :=
  (∀ (s : State) (i : Instr), s.status.busy = true → s.curOp = some i → s.events = [] → step s = exec i s) ∧
  (∀ (s : State) (es : List Event) (i : Instr), s.status.busy = true → s.curOp = some i → s.events = .core :: es →
    step s = exec i { s with events := es }) ∧
  (∀ s : State, s.status.busy = false → s.events = [] → step s = .next s)

/-! ## STATUS, errors and acceptance -/

/-- STATUS as it is read (10_state.md R25) and the codes of 60_exceptions.md R212. -/
def Obligations.StatusWordLayout : Prop :=
  (∀ st : Status,
    st.word.getLsbD 0 = st.busy ∧ st.word.getLsbD 1 = st.done ∧ st.word.getLsbD 2 = st.err ∧
    st.word.getLsbD 3 = false ∧ st.word.extractLsb' 4 4 = st.errCode.code ∧
    st.word.extractLsb' 8 4 = st.lastOp ∧ st.word.extractLsb' 12 20 = 0#20) ∧
  ErrCode.none.code = 0#4 ∧ ErrCode.illegalCmd.code = 1#4 ∧ ErrCode.cmdBusy.code = 2#4 ∧
  ErrCode.textLenRange.code = 3#4 ∧ ErrCode.wordCountRange.code = 4#4 ∧ ErrCode.badRate.code = 5#4 ∧
  ErrCode.sinkFail.code = 6#4

/-- `raise Err(code)` (60_exceptions.md R211): the first error wins, nothing else changes, and a running command that fails
is over with DONE as it was. -/
def Obligations.FirstErrorWins : Prop :=
  ∀ (s : State) (c : ErrCode),
    (s.status.err = false → s.raiseErr c = { s with status := { s.status with err := true, errCode := c } }) ∧
    (s.status.err = true → s.raiseErr c = s) ∧
    (∃ m d, s.sinkFail = { s with
      status := { (s.raiseErr .sinkFail).status with busy := false }
      curOp := none, mph := .idle, mpos := m, draws := d })

/-- A write of STATUS, at any time (20_memory.md R66). -/
def Obligations.StatusWriteOneToClear : Prop :=
  ∀ (s : State) (es : List Event) (v : Word), s.events = .access (.write 0x004 4 v) :: es →
    step s = .next { s with
      events := es
      status := { s.status with
        done := if v.getLsbD 1 then false else s.status.done
        err := if v.getLsbD 2 then false else s.status.err
        errCode := if v.getLsbD 2 then .none else s.status.errCode } }

/-- Every CMD write: the checks in the order of 60_exceptions.md R213, what a refusal leaves, what acceptance leaves, and the
steps in which an accepted command is performed, as `exec` and `step` run them; AcceptanceAtEveryParameterSet says the same at
every legal parameter set. -/
def Obligations.AcceptanceChecksInOrder : Prop :=
  (∀ (s : State) (es : List Event) (v : Word), s.events = .access (.write 0x000 4 v) :: es →
    (s.status.busy = true → step s = .next ({ s with events := es }.raiseErr .cmdBusy)) ∧
    (s.status.busy = false →
      (∀ why, decode v = .illegal why → step s = .next ({ s with events := es }.raiseErr .illegalCmd)) ∧
      (∀ i, decode v = .command i →
        (i = .packText ∨ i = .assemble → 256 < s.textLen.toNat →
          step s = .next ({ s with events := es }.raiseErr .textLenRange)) ∧
        (i = .modulate → 256 < s.wordCount.toNat →
          step s = .next ({ s with events := es }.raiseErr .wordCountRange)) ∧
        (i = .modulate → s.wordCount.toNat ≤ 256 →
          s.bitRate.toNat = 0 ∨ Config.params.sampleRate < s.bitRate.toNat →
          step s = .next ({ s with events := es }.raiseErr .badRate)) ∧
        (i = .encCw ∨ i = .encAddr ∨ (i = .packText ∨ i = .assemble) ∧ s.textLen.toNat ≤ 256 →
          step s = .next { s with
            events := es
            status := { s.status with done := false, lastOp := v.extractLsb' 0 4, busy := true }
            curOp := some i }) ∧
        (i = .modulate → s.wordCount.toNat ≤ 256 → s.bitRate.toNat ≠ 0 →
          s.bitRate.toNat ≤ Config.params.sampleRate →
          step s = .next { s with
            events := es
            status := { s.status with done := false, lastOp := v.extractLsb' 0 4, busy := true }
            curOp := some i
            mpos := { s.mpos with spbL := Config.params.sampleRate / s.bitRate.toNat }
            sampleCount := 0#32
            mph := .opening })))) ∧
  (∀ (s : State) (i : Instr), s.status.busy = true → s.curOp = some i → i ≠ .modulate →
    ∃ t, exec i s = .next t ∧ t.status.busy = false ∧ t.status.done = true ∧ t.curOp = none) ∧
  (∀ s : State, s.status.busy = true → s.curOp = some .modulate →
    (s.mph = .opening → exec .modulate s = .next (openStep s)) ∧
    (s.mph = .stream → exec .modulate s = .next (streamStep s)) ∧
    (s.mph = .closing → exec .modulate s = .next (closeStep s)))

/-! ## The bus -/

/-- The mapped offsets, exactly (20_memory.md R63), at every legal parameter set. -/
def Obligations.MappedOffsets : Prop :=
  ∀ (p : Params) (off : Nat), p.legal = true →
    ((target? p off).isSome = true ↔
      (∃ k, k < 15 ∧ off = 4 * k) ∨ (∃ k, k < p.textMax ∧ off = 0x400 + 4 * k) ∨
      (∃ k, k < p.wordMax ∧ off = 0x800 + 4 * k))

/-- Every register and every buffer entry is reached at its offset (10_state.md R22), so each form of the host notation
reaches what it names (30_encoding.md R103). -/
def Obligations.OffsetsReachTheirTargets : Prop :=
  ∀ p : Params, p.legal = true →
    (∀ r : Reg, target? p r.offset = some (.reg r)) ∧
    (∀ k, k < p.textMax → target? p (Target.text k).offset = some (.text k)) ∧
    (∀ k, k < p.wordMax → target? p (Target.word k).offset = some (.word k))

/-- BusError is answered for exactly the accesses of 20_memory.md R62, and nothing else stops a step. -/
def Obligations.OnlyBusErrorsStop : Prop :=
  (∀ (s : State) (es : List Event) (off n : Nat), s.events = .access (.read off n) :: es →
    (step s = .fault (.busError off n .read) ↔
      n ≠ 4 ∨ off % 4 ≠ 0 ∨ (target? Config.params off).isSome = false)) ∧
  (∀ (s : State) (es : List Event) (off n : Nat) (v : Word), s.events = .access (.write off n v) :: es →
    (step s = .fault (.busError off n .write) ↔
      n ≠ 4 ∨ off % 4 ≠ 0 ∨ (target? Config.params off).isSome = false)) ∧
  (∀ (s : State) (f : Fault), step s = .fault f →
    ∃ off n es, (s.events = .access (.read off n) :: es ∧ f = .busError off n .read) ∨
      ∃ v, s.events = .access (.write off n v) :: es ∧ f = .busError off n .write) ∧
  (∀ (s : State) (r : Refusal), step s ≠ .refused r)

/-- `ReadValue` (20_memory.md R64): the value each offset gives, that nothing else of the block changes, and that a result
read while BUSY = 1 gives a value nothing is said of. -/
def Obligations.ReadValues : Prop :=
  ∀ (s : State) (es : List Event) (off : Nat), s.events = .access (.read off 4) :: es →
    (off = 0x000 → step s = .next { s with events := es, reads := (off, 0#32) :: s.reads }) ∧
    (off = 0x004 → step s = .next { s with events := es, reads := (off, s.status.word) :: s.reads }) ∧
    (off = 0x008 → step s = .next { s with events := es, reads := (off, s.payload) :: s.reads }) ∧
    (off = 0x00C → step s = .next { s with events := es, reads := (off, s.addr) :: s.reads }) ∧
    (off = 0x010 → step s = .next { s with events := es, reads := (off, s.func) :: s.reads }) ∧
    (off = 0x014 → step s = .next { s with events := es, reads := (off, s.startPos) :: s.reads }) ∧
    (off = 0x018 → step s = .next { s with events := es, reads := (off, s.textLen) :: s.reads }) ∧
    (off = 0x01C → step s = .next { s with events := es, reads := (off, s.bitRate) :: s.reads }) ∧
    (off = 0x020 → step s = .next { s with events := es, reads := (off, s.invert) :: s.reads }) ∧
    (off = 0x038 → step s = .next { s with events := es, reads := (off, 0x01000100#32) :: s.reads }) ∧
    (∀ k, k < 256 → off = 0x400 + 4 * k →
      step s = .next { s with events := es, reads := (off, (s.textEntry k).setWidth 32) :: s.reads }) ∧
    (s.status.busy = false →
      (off = 0x024 → step s = .next { s with events := es, reads := (off, s.result) :: s.reads }) ∧
      (off = 0x028 → step s = .next { s with events := es, reads := (off, s.slotOffset.setWidth 32) :: s.reads }) ∧
      (off = 0x02C → step s = .next { s with events := es, reads := (off, s.wordCount) :: s.reads }) ∧
      (off = 0x030 → step s = .next { s with events := es, reads := (off, s.position.setWidth 32) :: s.reads }) ∧
      (off = 0x034 → step s = .next { s with events := es, reads := (off, s.sampleCount) :: s.reads }) ∧
      (∀ k, k < 256 → off = 0x800 + 4 * k →
        step s = .next { s with events := es, reads := (off, s.wordEntry k) :: s.reads })) ∧
    (s.status.busy = true →
      off = 0x024 ∨ off = 0x028 ∨ off = 0x02C ∨ off = 0x030 ∨ off = 0x034 ∨ (∃ k, k < 256 ∧ off = 0x800 + 4 * k) →
      ∃ v, step s = .next { s with events := es, reads := (off, v) :: s.reads, draws := s.draws + 1 }) ∧
    (∀ p : Params, p.legal = true → (State.held p s (.reg .info)).toNat = p.wordMax * 2 ^ 16 + p.textMax)

/-- `WriteEffect` (20_memory.md R65): what a write of each offset does while BUSY = 0 and while BUSY = 1. -/
def Obligations.WriteEffects : Prop :=
  ∀ (s : State) (es : List Event) (off : Nat) (v : Word), s.events = .access (.write off 4 v) :: es →
    (off = 0x000 → step s = submitWord exec v { s with events := es }) ∧
    (off = 0x000 → s.status.busy = true → step s = .next ({ s with events := es }.raiseErr .cmdBusy)) ∧
    (off = 0x004 → step s = .next ({ s with events := es }.writeStatus v)) ∧
    (s.status.busy = false →
      (off = 0x008 → step s = .next { s with events := es, payload := v }) ∧
      (off = 0x00C → step s = .next { s with events := es, addr := v }) ∧
      (off = 0x010 → step s = .next { s with events := es, func := v }) ∧
      (off = 0x014 → step s = .next { s with events := es, startPos := v }) ∧
      (off = 0x018 → step s = .next { s with events := es, textLen := v }) ∧
      (off = 0x01C → step s = .next { s with events := es, bitRate := v }) ∧
      (off = 0x020 → step s = .next { s with events := es, invert := v }) ∧
      (off = 0x02C → step s = .next { s with events := es, wordCount := v }) ∧
      (∀ k, k < 256 → off = 0x400 + 4 * k →
        ∃ m, step s = .next { s with events := es, mem := m } ∧
          (∀ j, { s with mem := m }.textEntry j = if j = k then v.extractLsb' 0 8 else s.textEntry j) ∧
          (∀ j, { s with mem := m }.wordEntry j = s.wordEntry j)) ∧
      (∀ k, k < 256 → off = 0x800 + 4 * k →
        ∃ m, step s = .next { s with events := es, mem := m } ∧
          (∀ j, { s with mem := m }.wordEntry j = if j = k then v else s.wordEntry j) ∧
          (∀ j, { s with mem := m }.textEntry j = s.textEntry j))) ∧
    (s.status.busy = true →
      off = 0x008 ∨ off = 0x00C ∨ off = 0x010 ∨ off = 0x014 ∨ off = 0x018 ∨ off = 0x01C ∨ off = 0x020 ∨ off = 0x02C ∨
        (∃ k, k < 256 ∧ (off = 0x400 + 4 * k ∨ off = 0x800 + 4 * k)) →
      step s = .next { s with events := es }) ∧
    (off = 0x024 ∨ off = 0x028 ∨ off = 0x030 ∨ off = 0x034 ∨ off = 0x038 → step s = .next { s with events := es })

/-! ## Reset -/

/-- The state after reset and after a reset transition (70_reset_and_hazards.md R241): every register 0 but INFO, CUR_OP =
NONE, MPH = IDLE, every buffer entry a free value. Nothing is said of the working registers. -/
def Obligations.ResetLeaves : Prop :=
  ∀ t : State,
    t = State.reset ∨ (∃ s es, s.events = Event.reset :: es ∧ step s = .next t) →
      t.status = { busy := false, done := false, err := false, errCode := .none, lastOp := 0#4 } ∧
      t.status.word = 0#32 ∧
      t.payload = 0#32 ∧ t.addr = 0#32 ∧ t.func = 0#32 ∧ t.startPos = 0#32 ∧ t.textLen = 0#32 ∧ t.bitRate = 0#32 ∧
      t.invert = 0#32 ∧ t.result = 0#32 ∧ t.slotOffset = 0#4 ∧ t.wordCount = 0#32 ∧ t.position = 0#4 ∧
      t.sampleCount = 0#32 ∧ t.held Config.params (.reg .info) = 0x01000100#32 ∧
      t.curOp = none ∧ t.mph = .idle ∧
      (∀ k, t.textEntry k = Config.unwrittenText t.epoch k) ∧ (∀ k, t.wordEntry k = Config.unwrittenWord t.epoch k)

/-- Reset during a command (70_reset_and_hazards.md R242): the command is abandoned, no sink operation is issued then or by
the core's next turns, and what was delivered stays delivered. RESULT and WORD_COUNT are 0 by R241. The model's choices: the
answers, reads and later events are kept (log entry 12), and with nothing scheduled the state stays for every number of steps
(log entries 1 and 13). -/
def Obligations.ResetAbandons : Prop :=
  ∀ (s : State) (es : List Event), s.events = .reset :: es →
    ∃ t, step s = .next t ∧ t.curOp = none ∧ t.status.busy = false ∧ t.status.done = false ∧ t.mph = .idle ∧
      t.result = 0#32 ∧ t.wordCount = 0#32 ∧ t.events = es ∧
      t.sinkLog = s.sinkLog ∧ t.answers = s.answers ∧ t.reads = s.reads ∧
      (∀ n, Host.Core.run Sys2Proof.core n { t with events := [] } = .next { t with events := [] })

/-! ## ENC_CW -/

/-- After the 21 steps the register's bits 30:10 are 0 and the CRC is the rest (40_codeword.md R123). -/
def Obligations.CrcDivisionClearsTopBits : Prop :=
  ∀ p : Payload, (crcDivide (crcStart p)).extractLsb' 10 21 = 0#21 ∧
    crcOf p = (crcDivide (crcStart p)).extractLsb' 0 10

/-- The codeword's fields (40_codeword.md R125): the masked payload (R120), the CRC, and the parity, which is the population
count's parity (R124). -/
def Obligations.CodewordFields : Prop :=
  ∀ a : Word,
    (encodeCw a).extractLsb' 11 21 = a.extractLsb' 0 21 ∧
    (encodeCw a).extractLsb' 1 10 = crcOf (a.extractLsb' 0 21) ∧
    (encodeCw a).getLsbD 0 = decide (popcount (a.extractLsb' 0 21 ++ crcOf (a.extractLsb' 0 21)) % 2 = 1)

/-- Every codeword has even population count (40_codeword.md R127 item 1). -/
def Obligations.CodewordParityEven : Prop :=
  ∀ a : Word, popcount (encodeCw a) % 2 = 0

/-- ENCODE is linear over GF(2), so the 21 unit codewords determine every codeword (40_codeword.md R127 item 4). -/
def Obligations.CodewordLinear : Prop :=
  (∀ a b : Word, encodeCw (a ^^^ b) = encodeCw a ^^^ encodeCw b) ∧ encodeCw 0#32 = 0#32 ∧
  (∀ a : Word, encodeCw a =
    (List.range 21).foldl (fun w k => if a.getLsbD k then w ^^^ encodeCw (1#32 <<< k) else w) 0#32)

/-- The CRC is the remainder of the payload times x^10 by g(x) over GF(2) (40_codeword.md R127 item 3). -/
def Obligations.CrcIsPolynomialRemainder : Prop :=
  gf2Poly gen = (Polynomial.X ^ 10 + Polynomial.X ^ 9 + Polynomial.X ^ 8 + Polynomial.X ^ 6 + Polynomial.X ^ 5
    + Polynomial.X ^ 3 + 1 : Polynomial (ZMod 2)) ∧
  (gf2Poly gen).Monic ∧
  ∀ p : Payload, gf2Poly (crcOf p) = (gf2Poly p * Polynomial.X ^ 10).modByMonic (gf2Poly gen)

/-- The codewords (40_codeword.md R127 item 5): two arguments give one codeword exactly when their low 21 bits agree, the
words that are their own payload's codeword are exactly the codewords, and SYNC and IDLE are two of them while the preamble
word is none (30_encoding.md R98). -/
def Obligations.CodewordsByPayload : Prop :=
  (∀ a b : Word, encodeCw a = encodeCw b ↔ a.extractLsb' 0 21 = b.extractLsb' 0 21) ∧
  (∀ w : Word, encodeCw (w >>> 11) = w ↔ ∃ a, encodeCw a = w) ∧
  encodeCw (syncWord >>> 11) = syncWord ∧ encodeCw (idleWord >>> 11) = idleWord ∧
  encodeCw (preambleWord >>> 11) ≠ preambleWord

/-- The constant words and their fields (30_encoding.md R98). -/
def Obligations.ConstantWords : Prop :=
  preambleWord = 0xAAAAAAAA#32 ∧ syncWord = 0x7CD215D8#32 ∧ idleWord = 0x7A89C197#32 ∧
  (preambleWord.getLsbD 31 = true ∧ preambleWord.extractLsb' 11 20 = 0x55555#20 ∧
    preambleWord.extractLsb' 1 10 = 0x155#10 ∧ preambleWord.getLsbD 0 = false) ∧
  (syncWord.getLsbD 31 = false ∧ syncWord.extractLsb' 11 20 = 0xF9A42#20 ∧
    syncWord.extractLsb' 1 10 = 0x2EC#10 ∧ syncWord.getLsbD 0 = false) ∧
  (idleWord.getLsbD 31 = false ∧ idleWord.extractLsb' 11 20 = 0xF5138#20 ∧
    idleWord.extractLsb' 1 10 = 0x0CB#10 ∧ idleWord.getLsbD 0 = true) ∧
  encodeCw 0x155555#32 = 0xAAAAAF1B#32 ∧ encodeCw 0x0F9A42#32 = syncWord ∧ encodeCw 0x0F5138#32 = idleWord

/-- ENC_CW (40_codeword.md R128): acceptance, CMD_BUSY, the core step with everything it leaves alone, and the corner
cases. -/
def Obligations.EncCwCommand : Prop :=
  (∀ (s : State) (es : List Event), s.events = .access (.write 0x000 4 0x00000001#32) :: es →
    (s.status.busy = false →
      step s = .next { s with
        events := es
        status := { s.status with busy := true, done := false, lastOp := 0x1#4 }, curOp := some .encCw }) ∧
    (s.status.busy = true → step s = .next ({ s with events := es }.raiseErr .cmdBusy))) ∧
  (∀ s : State, s.status.busy = true → s.curOp = some .encCw →
    ∃ w d, exec .encCw s = .next { s with
      result := encodeCw s.payload
      status := { s.status with busy := false, done := true }
      curOp := none, work := w, draws := d }) ∧
  (∀ a : Word, encodeCw a = encodeCw (a &&& 0x1FFFFF#32)) ∧
  encodeCw 0x00000000#32 = 0x00000000#32 ∧ encodeCw 0x00200000#32 = 0x00000000#32 ∧
  encodeCw 0xFFFFFFFF#32 = 0xFFFFFFFF#32 ∧ encodeCw 0x001FFFFF#32 = 0xFFFFFFFF#32 ∧
  encodeCw 0x00100000#32 = 0x80000769#32 ∧ encodeCw 0x000FFFFF#32 = 0x7FFFF896#32 ∧
  crcOf 0x012345#21 = 0x249#10 ∧ encodeCw 0x00012345#32 = 0x091A2C93#32

/-! ## ENC_ADDR -/

/-- The address codeword and the slot offset (41_address.md R143). -/
def Obligations.AddressCodewordFields : Prop :=
  (∀ a f : Word,
    (encodeAddress a f).1.getLsbD 31 = false ∧
    (encodeAddress a f).1.extractLsb' 13 18 = a.extractLsb' 3 18 ∧
    (encodeAddress a f).1.extractLsb' 11 2 = f.extractLsb' 0 2 ∧
    (encodeAddress a f).2.toNat = 2 * (a.toNat % 8)) ∧
  (∀ a b f : Word, a.extractLsb' 3 18 = b.extractLsb' 3 18 → (encodeAddress a f).1 = (encodeAddress b f).1) ∧
  encodeAddress 0#32 0#32 = (0#32, 0#4)

/-- ENC_ADDR (41_address.md R144). -/
def Obligations.EncAddrCommand : Prop :=
  (∀ (s : State) (es : List Event), s.events = .access (.write 0x000 4 0x00000002#32) :: es →
    (s.status.busy = false →
      step s = .next { s with
        events := es
        status := { s.status with busy := true, done := false, lastOp := 0x2#4 }, curOp := some .encAddr }) ∧
    (s.status.busy = true → step s = .next ({ s with events := es }.raiseErr .cmdBusy))) ∧
  (∀ s : State, s.status.busy = true → s.curOp = some .encAddr →
    ∃ w d, exec .encAddr s = .next { s with
      result := (encodeAddress s.addr s.func).1
      slotOffset := (encodeAddress s.addr s.func).2
      status := { s.status with busy := false, done := true }
      curOp := none, work := w, draws := d }) ∧
  (∀ a f : Word, encodeAddress a f = encodeAddress (a &&& 0x1FFFFF#32) (f &&& 0x3#32)) ∧
  encodeAddress 0#32 0#32 = (0x00000000#32, 0#4) ∧ encodeAddress 1#32 0#32 = (0x00000000#32, 2#4) ∧
  addressData 0x0012D687#32 3#32 = 0x96B43#32 ∧ encodeAddress 0x0012D687#32 3#32 = (0x4B5A1A25#32, 14#4)

/-! ## PACK_TEXT -/

/-- The counts of 42_packer.md R161, for every text, start and alignment. -/
def Obligations.PackCounts : Prop :=
  ∀ (al : PartialAlign) (s : Nat) (chars : List Byte), s < 16 →
    ((pack al s chars).1.filter (· ≠ syncWord)).length = messageWords chars.length ∧
    (pack al s chars).1.count syncWord = (s + messageWords chars.length) / 16 ∧
    (pack al s chars).1.length = messageWords chars.length + (s + messageWords chars.length) / 16 ∧
    (pack al s chars).2 = (s + messageWords chars.length) % 16 ∧
    ((pack al s chars).1.getLast? = some syncWord ↔
      1 ≤ messageWords chars.length ∧ (s + messageWords chars.length) % 16 = 0) ∧
    (∀ w ∈ (pack al s chars).1, w ≠ syncWord → w.getLsbD 31 = true ∧ w ≠ idleWord) ∧
    (chars.length ≤ 256 → (pack al s chars).1.length ≤ 96)

/-- The message comes out bit for bit: the data bits of the message codewords, in the order sent, are the characters' bits,
least significant first, with the zeros of the final partial word after them (MSB) or before its bits (LSB) (42_packer.md
R153, R158; 30_encoding.md R97). -/
def Obligations.PackKeepsEveryBit : Prop :=
  ∀ (s : Nat) (chars : List Byte), s < 16 →
    (((pack .msb s chars).1.filter (· ≠ syncWord)).flatMap dataBits =
      chars.flatMap charBits ++ List.replicate (20 * messageWords chars.length - 7 * chars.length) false) ∧
    (((pack .lsb s chars).1.filter (· ≠ syncWord)).flatMap dataBits =
      (chars.flatMap charBits).take (20 * (7 * chars.length / 20))
        ++ List.replicate (20 * messageWords chars.length - 7 * chars.length) false
        ++ (chars.flatMap charBits).drop (20 * (7 * chars.length / 20)))

/-- SYNC stands after every 16th codeword position and nowhere else (42_packer.md R156), and every other word of the output
is a message codeword (R155). -/
def Obligations.PackSyncPlacement : Prop :=
  ∀ (al : PartialAlign) (s : Nat) (chars : List Byte), s < 16 →
    (∀ i, i < (pack al s chars).1.length → ((pack al s chars).1[i]? = some syncWord ↔ (s + i + 1) % 17 = 0)) ∧
    (∀ w ∈ (pack al s chars).1, w = syncWord ∨ (w.getLsbD 31 = true ∧ encodeCw (w >>> 11) = w))

/-- PACK_TEXT (42_packer.md R162), as `exec` and `step` run it; PackTextAtEveryParameterSet and AcceptanceAtEveryParameterSet
say the same at every legal parameter set. -/
def Obligations.PackTextCommand : Prop :=
  (∀ (s : State) (es : List Event), s.events = .access (.write 0x000 4 0x00000003#32) :: es →
    (s.status.busy = false → s.textLen.toNat ≤ 256 →
      step s = .next { s with
        events := es
        status := { s.status with busy := true, done := false, lastOp := 0x3#4 }, curOp := some .packText }) ∧
    (s.status.busy = false → 256 < s.textLen.toNat →
      step s = .next ({ s with events := es }.raiseErr .textLenRange)) ∧
    (s.status.busy = true → step s = .next ({ s with events := es }.raiseErr .cmdBusy))) ∧
  (∀ s : State, s.status.busy = true → s.curOp = some .packText →
    ∃ m w d, exec .packText s = .next { s with
        mem := m
        wordCount := BitVec.ofNat 32 (pack .msb (s.startPos.toNat % 16) s.chars).1.length
        position := BitVec.ofNat 4 (pack .msb (s.startPos.toNat % 16) s.chars).2
        status := { s.status with busy := false, done := true }
        curOp := none, work := w, draws := d } ∧
      (∀ k, { s with mem := m }.textEntry k = s.textEntry k) ∧
      (∀ k, { s with mem := m }.wordEntry k =
        ((pack .msb (s.startPos.toNat % 16) s.chars).1[k]?).getD (s.wordEntry k))) ∧
  (∀ (al : PartialAlign) (n : Nat), pack al n [] = ([], n)) ∧
  (∀ (al : PartialAlign) (c : Byte), ∃ w, w.getLsbD 31 = true ∧ pack al 15 [c] = ([w, syncWord], 0)) ∧
  (∀ (al : PartialAlign) (n : Nat) (chars : List Byte), 7 * chars.length % 20 = 0 →
    pack al n chars =
      ((chars.foldl Packer.pushChar (Packer.start n)).out, (chars.foldl Packer.pushChar (Packer.start n)).pos)) ∧
  encodeCw (flagMsg ||| 0x82870#32) = 0xC14387B8#32 ∧ encodeCw (flagMsg ||| 0x80000#32) = 0xC00004DC#32 ∧
  pack .msb 0 [0x41#8, 0x42#8, 0x43#8] = ([0xC14387B8#32, 0xC00004DC#32], 2)

/-! ## ASSEMBLE -/

/-- The length and the shape of a transmission (43_assembler.md R178). -/
def Obligations.AssembleShape : Prop :=
  ∀ (al : PartialAlign) (a f : Word) (chars : List Byte) (so m written : Nat),
    so = (encodeAddress a f).2.toNat → m = messageWords chars.length → written = 2 + so + m + (so + 1 + m) / 16 →
      (assembleWords al a f chars).length = 18 + written + (written % 16 - 1) ∧
      (assembleWords al a f chars).length ≤ 48 + m + (m + 15) / 16 ∧
      (∀ i, i < 18 → (assembleWords al a f chars)[i]? = some 0xAAAAAAAA#32) ∧
      (assembleWords al a f chars)[18]? = some syncWord ∧
      (∀ i, 19 ≤ i → i < 19 + so → (assembleWords al a f chars)[i]? = some idleWord) ∧
      (assembleWords al a f chars)[19 + so]? = some (encodeAddress a f).1 ∧
      ((assembleWords al a f chars).drop (20 + so)).take (written - 2 - so) = (pack al (so + 1) chars).1 ∧
      (assembleWords al a f chars).drop (18 + written) = List.replicate (written % 16 - 1) idleWord ∧
      ((assembleWords al a f chars).drop 18).filter (fun w => w.getLsbD 31) =
        (pack al (so + 1) chars).1.filter (· ≠ syncWord)

/-- No command writes past the WORD buffer (00_scope.md R10, 60_exceptions.md R221). -/
def Obligations.OutputFitsWordBuffer : Prop :=
  ∀ (p : Params) (al : PartialAlign) (a f : Word) (n : Nat) (chars : List Byte),
    p.legal = true → chars.length ≤ p.textMax → n < 16 →
      (assembleWords al a f chars).length ≤ p.wordMax ∧ (pack al n chars).1.length ≤ p.wordMax

/-- ASSEMBLE (43_assembler.md R179), as `exec` and `step` run it; AssembleAtEveryParameterSet and
AcceptanceAtEveryParameterSet say the same at every legal parameter set. -/
def Obligations.AssembleCommand : Prop :=
  (∀ (s : State) (es : List Event), s.events = .access (.write 0x000 4 0x00000004#32) :: es →
    (s.status.busy = false → s.textLen.toNat ≤ 256 →
      step s = .next { s with
        events := es
        status := { s.status with busy := true, done := false, lastOp := 0x4#4 }, curOp := some .assemble }) ∧
    (s.status.busy = false → 256 < s.textLen.toNat →
      step s = .next ({ s with events := es }.raiseErr .textLenRange)) ∧
    (s.status.busy = true → step s = .next ({ s with events := es }.raiseErr .cmdBusy))) ∧
  (∀ s : State, s.status.busy = true → s.curOp = some .assemble →
    ∃ m w d, exec .assemble s = .next { s with
        mem := m
        wordCount := BitVec.ofNat 32 (assembleWords .msb s.addr s.func s.chars).length
        result := (encodeAddress s.addr s.func).1
        slotOffset := (encodeAddress s.addr s.func).2
        position := BitVec.ofNat 4 (pack .msb ((encodeAddress s.addr s.func).2.toNat + 1) s.chars).2
        status := { s.status with busy := false, done := true }
        curOp := none, work := w, draws := d } ∧
      (∀ k, { s with mem := m }.textEntry k = s.textEntry k) ∧
      (∀ k, { s with mem := m }.wordEntry k =
        ((assembleWords .msb s.addr s.func s.chars)[k]?).getD (s.wordEntry k))) ∧
  (∀ al a f chars, assembleWords al a f chars = assembleWords al (a &&& 0x1FFFFF#32) (f &&& 0x3#32) chars) ∧
  (∀ al a f, (assemblePack al a f []).1 = [] ∧ (assemblePack al a f []).2 = (encodeAddress a f).2.toNat + 1) ∧
  (∀ (al : PartialAlign) (f : Word) (chars : List Byte), chars.length = 38 →
    (assembleBody al 0#32 f chars).length = 18 + 16 ∧ assembleWords al 0#32 f chars = assembleBody al 0#32 f chars) ∧
  (∀ (al : PartialAlign) (f : Word) (chars : List Byte), chars.length = 55 →
    (assembleBody al 5#32 f chars).length = 18 + 33 ∧ assembleWords al 5#32 f chars = assembleBody al 5#32 f chars) ∧
  (∀ (al : PartialAlign) (a f : Word) (chars : List Byte) (written : Nat),
    written = 2 + (encodeAddress a f).2.toNat + (assemblePack al a f chars).1.length →
      (assembleWords al a f chars).length = 18 + written + (written % 16 - 1) ∧
      (written % 16 ≤ 1 → assembleWords al a f chars = assembleBody al a f chars)) ∧
  (∀ (al : PartialAlign) (f : Word) (chars : List Byte), chars.length = 2 →
    ∃ w, w ≠ syncWord ∧ (assemblePack al 7#32 f chars).1 = [w, syncWord] ∧
      (assembleWords al 7#32 f chars).length = 18 + (2 + 14 + 2) + 1) ∧
  assembleWords .msb 0#32 0#32 [] =
    List.replicate 18 0xAAAAAAAA#32 ++ [0x7CD215D8#32, 0x00000000#32, 0x7A89C197#32]

/-! ## MODULATE -/

/-- The OPEN step (44_modulator.md R192). The model's choices: the answer is the head of `answers`, and a free value where
that is empty (log entry 2). -/
def Obligations.ModulateOpenStep : Prop :=
  ∀ s : State, s.status.busy = true → s.curOp = some .modulate → s.mph = .opening →
    ∃ as d,
      (∀ a rest, a ≠ .held → s.answers = a :: rest →
        s.takeSettled.1 = decide (a = .ok) ∧ as = rest ∧ d = s.draws) ∧
      (s.takeSettled.1 = true → s.wordCount = 0#32 →
        exec .modulate s = .next { s with
          answers := as, draws := d, sinkLog := .opened true :: s.sinkLog, mph := .closing }) ∧
      (s.takeSettled.1 = true → s.wordCount ≠ 0#32 →
        exec .modulate s = .next { s with
          answers := as, draws := d, sinkLog := .opened true :: s.sinkLog, mph := .stream
          mpos := { s.mpos with mw := 0, mb := 31, ms := 0 } }) ∧
      (s.takeSettled.1 = false →
        exec .modulate s =
          .next ({ s with answers := as, draws := d, sinkLog := .opened false :: s.sinkLog }.sinkFail))

/-- The STREAM step (44_modulator.md R193). The model's choices: the answer is the head of `answers`, and a free value where
that is empty, and a held write takes a step that moves only the answers where R193 says there is no step (log entry 2). -/
def Obligations.ModulateStreamStep : Prop :=
  ∀ s : State, s.status.busy = true → s.curOp = some .modulate → s.mph = .stream →
    ∃ as d,
      (∀ a rest, s.answers = a :: rest → s.takeWriteAnswer.1 = a ∧ as = rest ∧ d = s.draws) ∧
      (s.takeWriteAnswer.1 = .held → exec .modulate s = .next { s with answers := as, draws := d }) ∧
      (s.takeWriteAnswer.1 = .fail →
        exec .modulate s = .next ({ s with
          answers := as, draws := d
          sinkLog := .wrote (if (s.wordEntry s.mpos.mw).getLsbD s.mpos.mb ^^ s.invert.getLsbD 0 then .high else .low)
            false :: s.sinkLog }.sinkFail)) ∧
      (s.takeWriteAnswer.1 = .ok →
        exec .modulate s = .next { s with
          answers := as, draws := d
          sinkLog := .wrote (if (s.wordEntry s.mpos.mw).getLsbD s.mpos.mb ^^ s.invert.getLsbD 0 then .high else .low)
            true :: s.sinkLog
          sampleCount := s.sampleCount + 1#32
          mpos :=
            if s.mpos.ms + 1 = s.mpos.spbL then
              if s.mpos.mb = 0 then { s.mpos with ms := 0, mb := 31, mw := s.mpos.mw + 1 }
              else { s.mpos with ms := 0, mb := s.mpos.mb - 1 }
            else { s.mpos with ms := s.mpos.ms + 1 }
          mph :=
            if s.mpos.ms + 1 = s.mpos.spbL ∧
                (if s.mpos.mb = 0 then s.mpos.mw + 1 else s.mpos.mw) = s.wordCount.toNat
            then .closing else .stream })

/-- The CLOSE step (44_modulator.md R194). The model's choices: the answer is the head of `answers`, and a free value where
that is empty (log entry 2), and MW, MB, MS and SPB_L become a free value, which `draws` counts (log entry 4). -/
def Obligations.ModulateCloseStep : Prop :=
  ∀ s : State, s.status.busy = true → s.curOp = some .modulate → s.mph = .closing →
    ∃ as d m,
      (∀ a rest, a ≠ .held → s.answers = a :: rest →
        s.takeSettled.1 = decide (a = .ok) ∧ as = rest ∧ d = s.draws) ∧
      (s.takeSettled.1 = true →
        exec .modulate s = .next { s with
          answers := as, draws := d + 1, sinkLog := .closed true :: s.sinkLog, mph := .idle, mpos := m
          curOp := none, status := { s.status with busy := false, done := true } }) ∧
      (s.takeSettled.1 = false →
        exec .modulate s =
          .next ({ s with answers := as, draws := d, sinkLog := .closed false :: s.sinkLog }.sinkFail))

/-- Sink failure (44_modulator.md R195): a fail at any phase ends the command, DONE stays as it is, SINK_FAIL is recorded as
60_exceptions.md R211 says, the samples delivered and SAMPLE_COUNT stay, and nothing further goes to the sink. The model's
choices: where the answer comes from (log entry 2), and that with nothing scheduled the state stays for every number of steps
(log entries 1 and 13). -/
def Obligations.SinkFailureAbandons : Prop :=
  ∀ s : State, s.status.busy = true → s.curOp = some .modulate → s.mph ≠ .idle →
    (s.mph = .stream → s.takeWriteAnswer.1 = .fail) → (s.mph ≠ .stream → s.takeSettled.1 = false) →
    ∃ t o, exec .modulate s = .next t ∧ t.mph = .idle ∧ t.curOp = none ∧ t.status.busy = false ∧
      t.status.done = s.status.done ∧ t.status.err = true ∧
      t.status.errCode = (if s.status.err then s.status.errCode else .sinkFail) ∧
      t.sinkLog = o :: s.sinkLog ∧ (o = .opened false ∨ o = .wrote s.currentLevel false ∨ o = .closed false) ∧
      t.sampleCount = s.sampleCount ∧ t.mem = s.mem ∧ t.wordCount = s.wordCount ∧
      (∀ n, Host.Core.run Sys2Proof.core n { t with events := [] } = .next { t with events := [] })

/-- A held write moves nothing, and an open or a close is never held (44_modulator.md R187). The model's choices: a hold is a
step that takes one answer (log entry 2), and held answers before an open or a close are passed over (log entry 14). -/
def Obligations.HeldWriteStalls : Prop :=
  (∀ (s : State) (as : List SinkAnswer), s.status.busy = true → s.curOp = some .modulate → s.mph = .stream →
    s.answers = .held :: as → exec .modulate s = .next { s with answers := as }) ∧
  (∀ (s : State) (as : List SinkAnswer), s.answers = .held :: as →
    s.takeSettled = { s with answers := as }.takeSettled) ∧
  (∀ s : State, s.status.busy = true → s.curOp = some .modulate → s.mph = .opening ∨ s.mph = .closing →
    ∃ t o, exec .modulate s = .next t ∧ t.mph ≠ s.mph ∧ t.sinkLog = o :: s.sinkLog)

/-- A MODULATE whose sink answers ok every time issues one open, then `32 * N * SPB` writes in the order of 44_modulator.md
R190, then one close, and completes with SAMPLE_COUNT as R196 says (R197). The count of steps is the model's: nothing is
scheduled, so every step is the core's (log entry 1), and the answers are data in which no write is held (log entry 2). -/
def Obligations.ModulatePlaysWholeBuffer : Prop :=
  ∀ (s : State) (as : List SinkAnswer), s.status.busy = true → s.curOp = some .modulate → s.mph = .opening →
    s.events = [] → 1 ≤ s.mpos.spbL → s.sampleCount = 0#32 →
    s.answers = List.replicate (32 * s.wordCount.toNat * s.mpos.spbL + 2) .ok ++ as →
    ∃ t, Host.Core.run Sys2Proof.core (32 * s.wordCount.toNat * s.mpos.spbL + 2) s = .next t ∧
      t.sinkLog = ([SinkOp.opened true] ++ s.words.flatMap (wordWrites s.mpos.spbL (s.invert.getLsbD 0)) ++ [SinkOp.closed true]).reverse
        ++ s.sinkLog ∧
      (s.words.flatMap (wordWrites s.mpos.spbL (s.invert.getLsbD 0))).length = 32 * s.wordCount.toNat * s.mpos.spbL ∧
      t.sampleCount = BitVec.ofNat 32 (32 * s.wordCount.toNat * s.mpos.spbL) ∧
      t.status = { s.status with busy := false, done := true } ∧ t.curOp = none ∧ t.mph = .idle ∧ t.answers = as ∧
      t.mem = s.mem ∧ t.wordCount = s.wordCount ∧ t.result = s.result ∧ t.slotOffset = s.slotOffset ∧
      t.position = s.position

/-! ## The whole machine -/

/-- The working state is never read before it is set (10_state.md R31 to R34, 70_reset_and_hazards.md R241): two states that
differ only in CRC_R, PAR, PK_ACC, PK_N, PK_POS and `n`, and in the position fields that the phase does not use, take the
same step and end in two such states again. -/
def Obligations.WorkingStateNeverRead : Prop :=
  ∀ (s : State) (w : Work) (m : ModPos),
    (s.mph = .stream → m = s.mpos) → (s.mph = .opening → m.spbL = s.mpos.spbL) →
    (∀ f, step s = .fault f → step { s with work := w, mpos := m } = .fault f) ∧
    (∀ t, step s = .next t → ∃ w' m', step { s with work := w, mpos := m } = .next { t with work := w', mpos := m' } ∧
      (t.mph = .stream → m' = t.mpos) ∧ (t.mph = .opening → m'.spbL = t.mpos.spbL))

/-- Every legal parameter set is at the invariant after reset, and so is the machine. -/
def Obligations.ResetMeetsInv : Prop :=
  (∀ p : Params, Inv p State.reset) ∧ Inv Config.params State.reset

/-- Every step keeps the invariant: BUSY agrees with CUR_OP (10_state.md R30), MPH with CUR_OP (R34), the modulator's
position stays in range, SAMPLE_COUNT counts the samples (44_modulator.md R196), no buffer entry lies past its buffer
(00_scope.md R10); at every legal parameter set, and for the machine. -/
def Obligations.StepKeepsInv : Prop :=
  (∀ (p : Params) (s t : State), p.legal = true → Inv p s → transition p (execWith p) s = .next t → Inv p t) ∧
  (∀ s t : State, Inv Config.params s → step s = .next t → Inv Config.params t)

/-- While a command runs its operands are frozen (10_state.md R30, 20_memory.md R65): no step but a reset changes an operand
register or TEXT, and none that leaves the command running changes WORD or WORD_COUNT. -/
def Obligations.OperandsFrozenWhileBusy : Prop :=
  ∀ s t : State, s.status.busy = true → (∀ es, s.events ≠ .reset :: es) → step s = .next t →
    t.payload = s.payload ∧ t.addr = s.addr ∧ t.func = s.func ∧ t.startPos = s.startPos ∧ t.textLen = s.textLen ∧
    t.bitRate = s.bitRate ∧ t.invert = s.invert ∧ (∀ k, t.textEntry k = s.textEntry k) ∧
    (t.status.busy = true → t.wordCount = s.wordCount ∧ ∀ k, t.wordEntry k = s.wordEntry k)

/-- RESULT, SLOT_OFFSET and POSITION are written only by the completion step of a command that has them as a result, and
WORD_COUNT only by that or by the host (10_state.md R23). -/
def Obligations.ResultsWrittenOnlyAtCompletion : Prop :=
  ∀ s t : State, (∀ es, s.events ≠ .reset :: es) → step s = .next t →
    (t.result ≠ s.result →
      s.status.busy = true ∧ t.status.busy = false ∧ t.status.done = true ∧
      (s.curOp = some .encCw ∨ s.curOp = some .encAddr ∨ s.curOp = some .assemble)) ∧
    (t.slotOffset ≠ s.slotOffset →
      s.status.busy = true ∧ t.status.busy = false ∧ t.status.done = true ∧
      (s.curOp = some .encAddr ∨ s.curOp = some .assemble)) ∧
    (t.position ≠ s.position →
      s.status.busy = true ∧ t.status.busy = false ∧ t.status.done = true ∧
      (s.curOp = some .packText ∨ s.curOp = some .assemble)) ∧
    (t.wordCount ≠ s.wordCount →
      (s.status.busy = true ∧ t.status.busy = false ∧ t.status.done = true ∧
        (s.curOp = some .packText ∨ s.curOp = some .assemble)) ∨
      (s.status.busy = false ∧ ∃ v es, s.events = .access (.write 0x02C 4 v) :: es ∧ t.wordCount = v))

/-- The sink stream is ordered (20_memory.md R78): every step, reset included, leaves what was delivered and adds at most one
operation, and only a running MODULATE adds one. -/
def Obligations.SinkStreamOnlyGrows : Prop :=
  ∀ s t : State, step s = .next t →
    t.sinkLog = s.sinkLog ∨
    (∃ o, t.sinkLog = o :: s.sinkLog ∧ s.status.busy = true ∧ s.curOp = some .modulate ∧ s.mph ≠ .idle)

/-- From an idle block with nothing else scheduled, submitting a compute command whose check passes completes it in two steps
(70_reset_and_hazards.md R253) with every result of the command: RESULT (40_codeword.md R128), RESULT and SLOT_OFFSET
(41_address.md R144), WORD, WORD_COUNT and POSITION (42_packer.md R162), and all five (43_assembler.md R177). The count of
steps is the model's: nothing else is scheduled, so the second step is the core's (log entry 1). -/
def Obligations.ComputeCommandsComplete : Prop :=
  ∀ (s : State) (i : Instr), s.status.busy = false → s.events = [] → i ≠ .modulate →
    (i = .packText ∨ i = .assemble → s.textLen.toNat ≤ 256) →
    ∃ t, Host.Core.run Sys2Proof.core 2 (s.withFetchWord 32 (encode i).toNat) = .next t ∧
      t.status = { s.status with busy := false, done := true, lastOp := i.opcode } ∧ t.curOp = none ∧ t.events = [] ∧
      (i = .encCw → t.result = encodeCw s.payload) ∧
      (i = .encAddr → t.result = (encodeAddress s.addr s.func).1 ∧ t.slotOffset = (encodeAddress s.addr s.func).2) ∧
      (i = .packText →
        t.words = (pack .msb (s.startPos.toNat % 16) s.chars).1 ∧
        t.wordCount.toNat = (pack .msb (s.startPos.toNat % 16) s.chars).1.length ∧
        t.position.toNat = (pack .msb (s.startPos.toNat % 16) s.chars).2) ∧
      (i = .assemble →
        t.words = assembleWords .msb s.addr s.func s.chars ∧
        t.wordCount.toNat = (assembleWords .msb s.addr s.func s.chars).length ∧
        t.result = (encodeAddress s.addr s.func).1 ∧ t.slotOffset = (encodeAddress s.addr s.func).2 ∧
        t.position.toNat = (pack .msb ((encodeAddress s.addr s.func).2.toNat + 1) s.chars).2)

/-- A parameter set is refused unless every parameter is in its range (00_scope.md R9) and WORD_MAX is at least
`WMIN(TEXT_MAX)` (R10). -/
def Obligations.IllegalParametersRefused : Prop :=
  (∀ p : Params, (blockFor? p).isSome = true ↔
    1 ≤ p.textMax ∧ p.textMax ≤ 256 ∧
    48 + (7 * p.textMax + 19) / 20 + ((7 * p.textMax + 19) / 20 + 15) / 16 ≤ p.wordMax ∧ p.wordMax ≤ 512 ∧
    1 ≤ p.sampleRate ∧ 1 ≤ p.sampleBits ∧ p.highLevel < 2 ^ p.sampleBits ∧ p.lowLevel < 2 ^ p.sampleBits ∧
    p.highLevel ≠ p.lowLevel) ∧
  (blockFor? Config.params).isSome = true ∧ wmin 256 = 144

/-! ## Every legal parameter set -/

/-- `step` and `exec` are the machine of a parameter set at `Config.params`, which is legal (00_scope.md R9, R10; log entry
7). -/
def Obligations.StepIsTheMachineAtParams : Prop :=
  Config.params.legal = true ∧ Config.params.textMax = 256 ∧ Config.params.wordMax = 256 ∧
  Config.params.partialAlign = .msb ∧
  (∀ (i : Instr) (s : State), exec i s = execWith Config.params i s) ∧
  (∀ s : State, step s = transition Config.params (execWith Config.params) s)

/-- Every CMD write at every legal parameter set (00_scope.md R9): the checks of 60_exceptions.md R213 at TEXT_MAX, WORD_MAX
and SAMPLE_RATE, what a refusal leaves, what acceptance leaves, and the steps that perform the command. -/
def Obligations.AcceptanceAtEveryParameterSet : Prop :=
  ∀ p : Params, p.legal = true →
    (∀ (s : State) (es : List Event) (v : Word), s.events = .access (.write 0x000 4 v) :: es →
      (s.status.busy = true →
        transition p (execWith p) s = .next ({ s with events := es }.raiseErr .cmdBusy)) ∧
      (s.status.busy = false →
        (∀ why, decode v = .illegal why →
          transition p (execWith p) s = .next ({ s with events := es }.raiseErr .illegalCmd)) ∧
        (∀ i, decode v = .command i →
          (i = .packText ∨ i = .assemble → p.textMax < s.textLen.toNat →
            transition p (execWith p) s = .next ({ s with events := es }.raiseErr .textLenRange)) ∧
          (i = .modulate → p.wordMax < s.wordCount.toNat →
            transition p (execWith p) s = .next ({ s with events := es }.raiseErr .wordCountRange)) ∧
          (i = .modulate → s.wordCount.toNat ≤ p.wordMax →
            s.bitRate.toNat = 0 ∨ p.sampleRate < s.bitRate.toNat →
            transition p (execWith p) s = .next ({ s with events := es }.raiseErr .badRate)) ∧
          (i = .encCw ∨ i = .encAddr ∨ (i = .packText ∨ i = .assemble) ∧ s.textLen.toNat ≤ p.textMax →
            transition p (execWith p) s = .next { s with
              events := es
              status := { s.status with done := false, lastOp := v.extractLsb' 0 4, busy := true }
              curOp := some i }) ∧
          (i = .modulate → s.wordCount.toNat ≤ p.wordMax → s.bitRate.toNat ≠ 0 →
            s.bitRate.toNat ≤ p.sampleRate →
            transition p (execWith p) s = .next { s with
              events := es
              status := { s.status with done := false, lastOp := v.extractLsb' 0 4, busy := true }
              curOp := some i
              mpos := { s.mpos with spbL := p.sampleRate / s.bitRate.toNat }
              sampleCount := 0#32
              mph := .opening })))) ∧
    (∀ (s : State) (i : Instr), s.status.busy = true → s.curOp = some i → i ≠ .modulate →
      ∃ t, execWith p i s = .next t ∧ t.status.busy = false ∧ t.status.done = true ∧ t.curOp = none) ∧
    (∀ s : State, s.status.busy = true → s.curOp = some .modulate →
      (s.mph = .opening → execWith p .modulate s = .next (openStep s)) ∧
      (s.mph = .stream → execWith p .modulate s = .next (streamStep s)) ∧
      (s.mph = .closing → execWith p .modulate s = .next (closeStep s)))

/-- PACK_TEXT's core step at every legal parameter set, PARTIAL_ALIGN = LSB among them (42_packer.md R158, R162), and the
worked example of R162 under both alignments (95_test_vectors.md L2.3 for LSB). -/
def Obligations.PackTextAtEveryParameterSet : Prop :=
  (∀ (p : Params) (s : State), p.legal = true → s.status.busy = true → s.curOp = some .packText →
    ∃ m w d, execWith p .packText s = .next { s with
        mem := m
        wordCount := BitVec.ofNat 32 (pack p.partialAlign (s.startPos.toNat % 16) s.chars).1.length
        position := BitVec.ofNat 4 (pack p.partialAlign (s.startPos.toNat % 16) s.chars).2
        status := { s.status with busy := false, done := true }
        curOp := none, work := w, draws := d } ∧
      (∀ k, { s with mem := m }.textEntry k = s.textEntry k) ∧
      (∀ k, { s with mem := m }.wordEntry k =
        ((pack p.partialAlign (s.startPos.toNat % 16) s.chars).1[k]?).getD (s.wordEntry k))) ∧
  (∀ (acc : Data) (n : Nat), align .msb acc n = acc <<< (20 - n) ∧ align .lsb acc n = acc) ∧
  pack .msb 0 [0x41#8, 0x42#8, 0x43#8] = ([0xC14387B8#32, 0xC00004DC#32], 2) ∧
  pack .lsb 0 [0x41#8, 0x42#8, 0x43#8] = ([0xC14387B8#32, 0x800009BA#32], 2)

/-- ASSEMBLE's core step at every legal parameter set, PARTIAL_ALIGN = LSB among them (43_assembler.md R175 to R179;
42_packer.md R158). -/
def Obligations.AssembleAtEveryParameterSet : Prop :=
  ∀ (p : Params) (s : State), p.legal = true → s.status.busy = true → s.curOp = some .assemble →
    ∃ m w d, execWith p .assemble s = .next { s with
        mem := m
        wordCount := BitVec.ofNat 32 (assembleWords p.partialAlign s.addr s.func s.chars).length
        result := (encodeAddress s.addr s.func).1
        slotOffset := (encodeAddress s.addr s.func).2
        position := BitVec.ofNat 4 (pack p.partialAlign ((encodeAddress s.addr s.func).2.toNat + 1) s.chars).2
        status := { s.status with busy := false, done := true }
        curOp := none, work := w, draws := d } ∧
      (∀ k, { s with mem := m }.textEntry k = s.textEntry k) ∧
      (∀ k, { s with mem := m }.wordEntry k =
        ((assembleWords p.partialAlign s.addr s.func s.chars)[k]?).getD (s.wordEntry k)) ∧
      (s.textLen.toNat ≤ p.textMax →
        { s with mem := m, wordCount := BitVec.ofNat 32 (assembleWords p.partialAlign s.addr s.func s.chars).length }.words
          = assembleWords p.partialAlign s.addr s.func s.chars)
end

