-- ==== Sys2Proof/Laws/Codeword.lean ====
section
/-!
SUPPORT. The codeword's bits, the division step and the parity, each said once (40_codeword.md R120 to R125).
-/

namespace Sys2Proof.Machine

/-- The payload is the low 21 bits of the argument (40_codeword.md R120). -/
theorem payloadOf_eq (a : Word) : payloadOf a = a.extractLsb' 0 21 := by
  unfold payloadOf
  ext i hi
  simp only [BitVec.getElem_setWidth, BitVec.getLsbD_and, BitVec.getElem_extractLsb', Nat.zero_add]
  have : (0x1FFFFF#32).getLsbD i = true := by
    interval_cases i <;> rfl
  simp [this]

theorem payloadOf_xor (a b : Word) : payloadOf (a ^^^ b) = payloadOf a ^^^ payloadOf b := by
  simp only [payloadOf_eq]
  ext i hi
  simp

theorem crcStart_xor (p q : Payload) : crcStart (p ^^^ q) = crcStart p ^^^ crcStart q := by
  unfold crcStart
  ext i hi
  simp only [BitVec.getElem_shiftLeft, BitVec.setWidth_xor, BitVec.getElem_xor]
  cases decide (i < 10) <;> simp

theorem xor_cancel {n} (r t g : BitVec n) : r ^^^ g ^^^ (t ^^^ g) = r ^^^ t := by
  ext i hi
  simp only [BitVec.getElem_xor]
  cases r[i] <;> cases t[i] <;> cases g[i] <;> rfl

/-- A division step is linear over GF(2). -/
theorem crcStep_xor (r t : BitVec 31) (i : Nat) : crcStep (r ^^^ t) i = crcStep r i ^^^ crcStep t i := by
  unfold crcStep
  rw [BitVec.getLsbD_xor]
  cases r.getLsbD (30 - i) <;> cases t.getLsbD (30 - i) <;> simp
  · rw [BitVec.xor_assoc]
  · rw [BitVec.xor_assoc, BitVec.xor_assoc, BitVec.xor_comm t]
  · rw [xor_cancel]

/-- Any sequence of division steps is linear over GF(2). -/
theorem foldl_crcStep_xor (l : List Nat) : ∀ r t : BitVec 31,
    l.foldl crcStep (r ^^^ t) = l.foldl crcStep r ^^^ l.foldl crcStep t := by
  induction l with
  | nil => intro r t; rfl
  | cons i l ih => intro r t; simp only [List.foldl_cons, crcStep_xor, ih]

/-- The parity is linear over GF(2). -/
theorem parityOf_xor (a b : BitVec 31) : parityOf (a ^^^ b) = (parityOf a ^^ parityOf b) := by
  have key : ∀ (l : List Nat) (x y : Bool), l.foldl (fun par j => par ^^ (a ^^^ b).getLsbD (30 - j)) (x ^^ y) =
      (l.foldl (fun par j => par ^^ a.getLsbD (30 - j)) x ^^ l.foldl (fun par j => par ^^ b.getLsbD (30 - j)) y) := by
    intro l
    induction l with
    | nil => intro x y; rfl
    | cons i l ih =>
      intro x y
      simp only [List.foldl_cons]
      rw [← ih, BitVec.getLsbD_xor]
      congr 1
      cases x <;> cases y <;> cases a.getLsbD (30 - i) <;> cases b.getLsbD (30 - i) <;> rfl
  exact key _ false false

theorem codeword_xor (p q : Payload) (c d : BitVec 10) (x y : Bool) :
    codeword (p ^^^ q) (c ^^^ d) (x ^^ y) = codeword p c x ^^^ codeword q d y := by
  unfold codeword
  ext i hi
  simp only [BitVec.getElem_append, BitVec.getElem_xor]
  split
  · cases x <;> cases y <;> simp
  · split <;> simp

/-- The bits of a codeword (40_codeword.md R125). -/
theorem getLsbD_codeword (p : Payload) (c : BitVec 10) (x : Bool) (i : Nat) :
    (codeword p c x).getLsbD i = if i = 0 then x else if i < 11 then c.getLsbD (i - 1) else p.getLsbD (i - 11) := by
  unfold codeword
  rw [BitVec.getLsbD_append, BitVec.getLsbD_append]
  by_cases h0 : i = 0
  · subst h0; cases x <;> rfl
  · rw [if_neg h0, if_neg (by omega)]
    by_cases h1 : i < 11
    · simp [h1, show i - 1 < 10 by omega]
    · simp [h1, show ¬ (i - 1 < 10) by omega]
      congr 1

/-- The XOR fold is the population count modulo 2 (40_codeword.md R124). -/
theorem parityOf_eq (v : BitVec 31) : parityOf v = decide (popcount v % 2 = 1) := by
  unfold parityOf popcount
  have key : ∀ (l : List Nat) (x : Bool),
      l.foldl (fun par j => par ^^ v.getLsbD j) x =
        (x ^^ decide (l.countP (fun i => v.getLsbD i) % 2 = 1)) := by
    intro l
    induction l with
    | nil => intro x; simp
    | cons j l ih =>
      intro x
      rw [List.foldl_cons, ih, List.countP_cons]
      rcases Nat.mod_two_eq_zero_or_one (l.countP (fun i => v.getLsbD i)) with h | h <;>
        cases v.getLsbD j <;> cases x <;> simp [h, Nat.add_mod]
  have : List.foldl (fun par j => par ^^ v.getLsbD (30 - j)) false (List.range 31) =
      List.foldl (fun par j => par ^^ v.getLsbD j) false ((List.range 31).map (fun j => 30 - j)) := by
    rw [List.foldl_map]
  rw [this, key]
  have hp : ((List.range 31).map (fun j => 30 - j)).Perm (List.range 31) := by decide
  rw [hp.countP_eq]; simp

/-- A codeword's population count is its first 31 bits' and its parity bit. -/
theorem popcount_codeword (p : Payload) (c : BitVec 10) (x : Bool) :
    popcount (codeword p c x) = popcount (p ++ c) + x.toNat := by
  unfold popcount
  rw [show List.range 32 = 0 :: (List.range 31).map (· + 1) by decide, List.countP_cons, List.countP_map]
  congr 1
  · apply List.countP_congr
    intro i hi
    simp only [Function.comp, getLsbD_codeword, BitVec.getLsbD_append]
    rw [if_neg (by omega)]
    by_cases h : i < 10
    · rw [if_pos (by omega)]; simp [h]
    · rw [if_neg (by omega)]; simp [h, show i + 1 - 11 = i - 10 by omega]
  · rw [getLsbD_codeword]; cases x <;> rfl

/-- Step `i` clears bit `30 - i` and keeps every bit above it clear (40_codeword.md R122, R123). -/
theorem crcStep_clears {r : BitVec 31} {i : Nat} (hi : i ≤ 20) (h : ∀ j, 31 - i ≤ j → r.getLsbD j = false) :
    ∀ j, 30 - i ≤ j → (crcStep r i).getLsbD j = false := by
  intro j hj
  have hg : ∀ j, (gen.setWidth 31 <<< (20 - i)).getLsbD j =
      (decide (j < 31) && (!decide (j < 20 - i) && gen.getLsbD (j - (20 - i)))) := by
    intro j
    simp only [BitVec.getLsbD_shiftLeft, BitVec.getLsbD_setWidth]
    by_cases h : j < 31
    · simp [h, show j - (20 - i) < 31 by omega]
    · simp [h]
  unfold crcStep
  rcases Nat.lt_or_ge j (31 - i) with h1 | h1
  · have : j = 30 - i := by omega
    subst this
    split
    · next hr =>
      rw [BitVec.getLsbD_xor, hr, hg, show 30 - i - (20 - i) = 10 by omega]
      simp [show ¬ (30 - i < 20 - i) by omega, show 30 - i < 31 by omega]; decide
    · next hr => simpa using hr
  · split
    · rw [BitVec.getLsbD_xor, h j h1, hg, show gen.getLsbD (j - (20 - i)) = false from BitVec.getLsbD_of_ge _ _ (by omega)]
      simp
    · exact h j h1

open Polynomial in
/-- XOR is addition of polynomials over GF(2). -/
theorem gf2Poly_xor {n} (a b : BitVec n) : gf2Poly (a ^^^ b) = gf2Poly a + gf2Poly b := by
  unfold gf2Poly
  rw [← Finset.sum_add_distrib]
  apply Finset.sum_congr rfl
  intro i _
  rw [BitVec.getLsbD_xor]
  have h2 : (X ^ i + X ^ i : (ZMod 2)[X]) = 0 := by
    exact CharTwo.add_self_eq_zero _
  cases a.getLsbD i <;> cases b.getLsbD i <;> simp [h2]

open Polynomial in
/-- The generator shifted by `k` is the generator times `x^k`. -/
theorem gf2Poly_gen_shift (k : Nat) (hk : k ≤ 20) : gf2Poly (gen.setWidth 31 <<< k) = gf2Poly gen * X ^ k := by
  unfold gf2Poly
  rw [Finset.sum_mul]
  have h1 : ∀ f : ℕ → (ZMod 2)[X], (∀ i, i < k → f i = 0) → (∀ i, k + 11 ≤ i → f i = 0) →
      ∑ i ∈ Finset.range 31, f i = ∑ i ∈ Finset.range 11, f (k + i) := by
    intro f h1 h2
    rw [Finset.range_eq_Ico, ← Finset.sum_Ico_consecutive f (Nat.zero_le k) (by omega : k ≤ 31),
      ← Finset.sum_Ico_consecutive f (by omega : k ≤ k + 11) (by omega : k + 11 ≤ 31)]
    rw [Finset.sum_eq_zero, Finset.sum_eq_zero (s := Finset.Ico (k+11) 31)]
    · rw [Finset.sum_Ico_eq_sum_range]; simp
    · intro i hi; exact h2 i (Finset.mem_Ico.1 hi).1
    · intro i hi; exact h1 i (Finset.mem_Ico.1 hi).2
  rw [h1]
  · apply Finset.sum_congr rfl
    intro i hi
    have hi := Finset.mem_range.1 hi
    have : (gen.setWidth 31 <<< k).getLsbD (k + i) = gen.getLsbD i := by
      simp only [BitVec.getLsbD_shiftLeft, BitVec.getLsbD_setWidth]
      simp [show k + i < 31 by omega, show i < 31 by omega]
    rw [this]
    split <;> simp [pow_add, mul_comm]
  · intro i hi
    simp [BitVec.getLsbD_shiftLeft, hi]
  · intro i hi
    have : gen.getLsbD (i - k) = false := BitVec.getLsbD_of_ge _ _ (by omega)
    simp [BitVec.getLsbD_shiftLeft, this]

end Sys2Proof.Machine
end

