-- ==== Sys2Proof/Laws/Config.lean ====
section
/-!
SUPPORT. The parameter set `step` runs at is legal, whatever its OPEN values are (00_scope.md R9, R10).
-/

namespace Sys2Proof

theorem Params.legal_iff (p : Params) : p.legal = true ↔
    1 ≤ p.textMax ∧ p.textMax ≤ 256 ∧ wmin p.textMax ≤ p.wordMax ∧ p.wordMax ≤ 512 ∧ 1 ≤ p.sampleRate
      ∧ 1 ≤ p.sampleBits ∧ p.highLevel < 2 ^ p.sampleBits ∧ p.lowLevel < 2 ^ p.sampleBits
      ∧ p.highLevel ≠ p.lowLevel := by
  simp only [Params.legal, Bool.and_eq_true, decide_eq_true_eq, and_assoc]

/-- LOW_LEVEL as `Config.params` builds it differs from HIGH_LEVEL. -/
theorem level_shift_ne {m h d : Nat} (hm : 2 ≤ m) (hh : h < m) : (h + 1 + d % (m - 1)) % m ≠ h := by
  have hd : d % (m - 1) < m - 1 := Nat.mod_lt _ (by omega)
  intro he
  rcases Nat.lt_or_ge (h + 1 + d % (m - 1)) m with hl | hl
  · rw [Nat.mod_eq_of_lt hl] at he
    omega
  · rw [Nat.mod_eq_sub_mod hl, Nat.mod_eq_of_lt (by omega)] at he
    omega

theorem Config.params_legal : Config.params.legal = true := by
  have h2 : 2 ≤ 2 ^ (Config.sampleBitsPred + 1) := by
    have := Nat.one_le_two_pow (n := Config.sampleBitsPred)
    rw [Nat.pow_succ]
    omega
  have hp : 0 < 2 ^ (Config.sampleBitsPred + 1) := by omega
  rw [Params.legal_iff]
  refine ⟨by decide, by decide, by decide, by decide, Nat.succ_le_succ (Nat.zero_le _), Nat.succ_le_succ (Nat.zero_le _),
    Nat.mod_lt _ hp, Nat.mod_lt _ hp, ?_⟩
  exact fun h => level_shift_ne h2 (Nat.mod_lt _ hp) h.symm

end Sys2Proof
end

