-- ==== Sys2Proof/Laws/Memory.lean ====
section
/-!
SUPPORT. The buffers: a read after a write, and that every write keeps the canonical form (log entry 9).
-/

namespace Sys2Proof.Machine

variable {w : Nat}

theorem Buf.get?_set_self (k : Nat) (v : BitVec w) (b : Buf w) : Buf.get? (Buf.set k v b) k = some v := by
  induction b with
  | nil => simp [Buf.set, Buf.get?]
  | cons e b ih =>
    obtain ⟨j, u⟩ := e
    simp only [Buf.set]
    split
    · simp [Buf.get?]
    · split
      · simp [Buf.get?]
      · simp only [Buf.get?]
        rw [if_neg (by omega), ih]

theorem Buf.get?_set_ne {k l : Nat} (h : l ≠ k) (v : BitVec w) (b : Buf w) :
    Buf.get? (Buf.set k v b) l = Buf.get? b l := by
  induction b with
  | nil => simp [Buf.set, Buf.get?, Ne.symm h]
  | cons e b ih =>
    obtain ⟨j, u⟩ := e
    simp only [Buf.set]
    split
    · simp [Buf.get?, Ne.symm h]
    · split
      · next hk =>
        subst hk
        simp only [Buf.get?, if_neg (Ne.symm h)]
      · simp only [Buf.get?, ih]

theorem Buf.get?_set (k l : Nat) (v : BitVec w) (b : Buf w) :
    Buf.get? (Buf.set k v b) l = if l = k then some v else Buf.get? b l := by
  split
  · next h => subst h; exact Buf.get?_set_self _ _ _
  · next h => exact Buf.get?_set_ne h _ _

/-- What entry `l` holds once `vs` has been written to the entries from `k` on. -/
theorem Buf.get?_setFrom (vs : List (BitVec w)) : ∀ (k l : Nat) (b : Buf w),
    Buf.get? (Buf.setFrom k vs b) l =
      if k ≤ l then (vs[l - k]?).or (Buf.get? b l) else Buf.get? b l := by
  induction vs with
  | nil => intro k l b; simp [Buf.setFrom]
  | cons v vs ih =>
    intro k l b
    simp only [Buf.setFrom, ih, Buf.get?_set]
    by_cases h : l = k
    · subst h
      rw [if_neg (by omega), if_pos rfl, if_pos (Nat.le_refl _)]
      simp
    · by_cases h1 : k + 1 ≤ l
      · rw [if_pos h1, if_neg h, if_pos (by omega)]
        obtain ⟨d, rfl⟩ := Nat.exists_eq_add_of_le h1
        rw [show k + 1 + d - (k + 1) = d by omega, show k + 1 + d - k = d + 1 by omega]
        simp
      · rw [if_neg h1, if_neg h, if_neg (by omega)]

/-- The first entry of a buffer that `Buf.set` returns. -/
theorem Buf.set_head (k : Nat) (v : BitVec w) (b : Buf w) :
    ∃ j u t, Buf.set k v b = (j, u) :: t ∧ (j = k ∨ ∃ u' t', b = (j, u') :: t') := by
  match b with
  | [] => exact ⟨k, v, [], rfl, .inl rfl⟩
  | (j, u) :: b =>
    simp only [Buf.set]
    split
    · exact ⟨_, _, _, rfl, .inl rfl⟩
    · split
      · exact ⟨_, _, _, rfl, .inl rfl⟩
      · exact ⟨_, _, _, rfl, .inr ⟨_, _, rfl⟩⟩

theorem Buf.rising_tail {e : Nat × BitVec w} {b : Buf w} (h : Buf.rising (e :: b) = true) : Buf.rising b = true := by
  match b with
  | [] => rfl
  | _ :: _ => simp only [Buf.rising, Bool.and_eq_true] at h; exact h.2

theorem Buf.rising_set (k : Nat) (v : BitVec w) (b : Buf w) (h : Buf.rising b = true) :
    Buf.rising (Buf.set k v b) = true := by
  induction b with
  | nil => rfl
  | cons e b ih =>
    obtain ⟨j, u⟩ := e
    simp only [Buf.set]
    split
    · next hk => simp only [Buf.rising, Bool.and_eq_true, decide_eq_true_eq]; exact ⟨hk, h⟩
    · split
      · next hk =>
        subst hk
        match b, h with
        | [], _ => rfl
        | (m, x) :: b, h => simpa only [Buf.rising] using h
      · next h1 h2 =>
        have ht := ih (Buf.rising_tail h)
        obtain ⟨m, x, t, he, hm⟩ := Buf.set_head k v b
        rw [he] at ht ⊢
        simp only [Buf.rising, Bool.and_eq_true, decide_eq_true_eq]
        refine ⟨?_, ht⟩
        rcases hm with rfl | ⟨u', t', rfl⟩
        · omega
        · simp only [Buf.rising, Bool.and_eq_true, decide_eq_true_eq] at h
          exact h.1

theorem Buf.mem_set {k : Nat} {v : BitVec w} {b : Buf w} {e : Nat × BitVec w} (h : e ∈ Buf.set k v b) :
    e = (k, v) ∨ e ∈ b := by
  induction b with
  | nil => simpa [Buf.set] using h
  | cons f b ih =>
    obtain ⟨j, u⟩ := f
    simp only [Buf.set] at h
    split at h
    · simpa using h
    · split at h
      · rcases List.mem_cons.1 h with h | h
        · exact .inl h
        · exact .inr (List.mem_cons_of_mem _ h)
      · rcases List.mem_cons.1 h with h | h
        · exact .inr (h ▸ List.mem_cons_self ..)
        · rcases ih h with h | h
          · exact .inl h
          · exact .inr (List.mem_cons_of_mem _ h)

/-- A write of an entry that exists keeps the canonical form. -/
theorem Buf.wf_set {n k : Nat} (v : BitVec w) {b : Buf w} (hk : k < n) (h : Buf.wf n b = true) :
    Buf.wf n (Buf.set k v b) = true := by
  simp only [Buf.wf, Bool.and_eq_true, List.all_eq_true, decide_eq_true_eq] at h ⊢
  refine ⟨Buf.rising_set _ _ _ h.1, fun e he => ?_⟩
  rcases Buf.mem_set he with rfl | he
  · exact hk
  · exact h.2 e he

/-- Writing a sequence that fits keeps the canonical form. -/
theorem Buf.wf_setFrom {n : Nat} (vs : List (BitVec w)) : ∀ {k : Nat} {b : Buf w},
    k + vs.length ≤ n → Buf.wf n b = true → Buf.wf n (Buf.setFrom k vs b) = true := by
  induction vs with
  | nil => intro k b _ h; exact h
  | cons v vs ih =>
    intro k b hk h
    simp only [List.length_cons] at hk
    exact ih (by omega) (Buf.wf_set v (by omega) h)

theorem Memory.wf_reset (p : Params) : Memory.wf p State.reset.mem = true := rfl

theorem State.wf_setText {p : Params} {s : State} {k : Nat} (v : Byte) (hk : k < p.textMax)
    (h : s.mem.wf p = true) : (s.setText k v).mem.wf p = true := by
  simp only [Memory.wf, Bool.and_eq_true] at h ⊢
  exact ⟨Buf.wf_set v hk h.1, h.2⟩

theorem State.wf_setWord {p : Params} {s : State} {k : Nat} (v : Word) (hk : k < p.wordMax)
    (h : s.mem.wf p = true) : (s.setWord k v).mem.wf p = true := by
  simp only [Memory.wf, Bool.and_eq_true] at h ⊢
  exact ⟨h.1, Buf.wf_set v hk h.2⟩

theorem State.wf_putWords {p : Params} {s : State} {ws : List Word} (hw : ws.length ≤ p.wordMax)
    (h : s.mem.wf p = true) : (s.putWords ws).mem.wf p = true := by
  simp only [Memory.wf, Bool.and_eq_true] at h ⊢
  exact ⟨h.1, Buf.wf_setFrom ws (by omega) h.2⟩

theorem State.textEntry_setText (s : State) (k l : Nat) (v : Byte) :
    (s.setText k v).textEntry l = if l = k then v else s.textEntry l := by
  simp only [State.textEntry, State.setText, Buf.get?_set]
  split <;> rfl

theorem State.wordEntry_setWord (s : State) (k l : Nat) (v : Word) :
    (s.setWord k v).wordEntry l = if l = k then v else s.wordEntry l := by
  simp only [State.wordEntry, State.setWord, Buf.get?_set]
  split <;> rfl

theorem State.wordEntry_setText (s : State) (k l : Nat) (v : Byte) : (s.setText k v).wordEntry l = s.wordEntry l := rfl

theorem State.textEntry_setWord (s : State) (k l : Nat) (v : Word) : (s.setWord k v).textEntry l = s.textEntry l := rfl

theorem State.textEntry_putWords (s : State) (ws : List Word) (l : Nat) :
    (s.putWords ws).textEntry l = s.textEntry l := rfl

/-- Entry `l` after a sequence is written from entry 0: the sequence's word, or what it held (10_state.md R29). -/
theorem State.wordEntry_putWords (s : State) (ws : List Word) (l : Nat) :
    (s.putWords ws).wordEntry l = (ws[l]?).getD (s.wordEntry l) := by
  simp only [State.wordEntry, State.putWords, Buf.get?_setFrom, Nat.zero_le, if_true, Nat.sub_zero]
  cases ws[l]? <;> rfl

end Sys2Proof.Machine
end

