-- ==== Sys2Proof/Laws/State.lean ====
section
/-!
SUPPORT. One lemma per field per named update of State, so that no later proof unfolds a record update.
-/

namespace Sys2Proof.Machine

variable (s : State)

/-! `State.raiseErr` -/

@[simp] theorem State.raiseErr_status (c : ErrCode) : (s.raiseErr c).status = s.status.raise c := rfl
@[simp] theorem State.raiseErr_payload (c : ErrCode) : (s.raiseErr c).payload = s.payload := rfl
@[simp] theorem State.raiseErr_addr (c : ErrCode) : (s.raiseErr c).addr = s.addr := rfl
@[simp] theorem State.raiseErr_func (c : ErrCode) : (s.raiseErr c).func = s.func := rfl
@[simp] theorem State.raiseErr_startPos (c : ErrCode) : (s.raiseErr c).startPos = s.startPos := rfl
@[simp] theorem State.raiseErr_textLen (c : ErrCode) : (s.raiseErr c).textLen = s.textLen := rfl
@[simp] theorem State.raiseErr_bitRate (c : ErrCode) : (s.raiseErr c).bitRate = s.bitRate := rfl
@[simp] theorem State.raiseErr_invert (c : ErrCode) : (s.raiseErr c).invert = s.invert := rfl
@[simp] theorem State.raiseErr_result (c : ErrCode) : (s.raiseErr c).result = s.result := rfl
@[simp] theorem State.raiseErr_slotOffset (c : ErrCode) : (s.raiseErr c).slotOffset = s.slotOffset := rfl
@[simp] theorem State.raiseErr_wordCount (c : ErrCode) : (s.raiseErr c).wordCount = s.wordCount := rfl
@[simp] theorem State.raiseErr_position (c : ErrCode) : (s.raiseErr c).position = s.position := rfl
@[simp] theorem State.raiseErr_sampleCount (c : ErrCode) : (s.raiseErr c).sampleCount = s.sampleCount := rfl
@[simp] theorem State.raiseErr_mem (c : ErrCode) : (s.raiseErr c).mem = s.mem := rfl
@[simp] theorem State.raiseErr_curOp (c : ErrCode) : (s.raiseErr c).curOp = s.curOp := rfl
@[simp] theorem State.raiseErr_work (c : ErrCode) : (s.raiseErr c).work = s.work := rfl
@[simp] theorem State.raiseErr_mph (c : ErrCode) : (s.raiseErr c).mph = s.mph := rfl
@[simp] theorem State.raiseErr_mpos (c : ErrCode) : (s.raiseErr c).mpos = s.mpos := rfl
@[simp] theorem State.raiseErr_events (c : ErrCode) : (s.raiseErr c).events = s.events := rfl
@[simp] theorem State.raiseErr_answers (c : ErrCode) : (s.raiseErr c).answers = s.answers := rfl
@[simp] theorem State.raiseErr_sinkLog (c : ErrCode) : (s.raiseErr c).sinkLog = s.sinkLog := rfl
@[simp] theorem State.raiseErr_reads (c : ErrCode) : (s.raiseErr c).reads = s.reads := rfl
@[simp] theorem State.raiseErr_draws (c : ErrCode) : (s.raiseErr c).draws = s.draws := rfl
@[simp] theorem State.raiseErr_epoch (c : ErrCode) : (s.raiseErr c).epoch = s.epoch := rfl

/-! `State.writeStatus` -/

@[simp] theorem State.writeStatus_status (v : Word) : (s.writeStatus v).status = s.status.writeOneToClear v := rfl
@[simp] theorem State.writeStatus_payload (v : Word) : (s.writeStatus v).payload = s.payload := rfl
@[simp] theorem State.writeStatus_addr (v : Word) : (s.writeStatus v).addr = s.addr := rfl
@[simp] theorem State.writeStatus_func (v : Word) : (s.writeStatus v).func = s.func := rfl
@[simp] theorem State.writeStatus_startPos (v : Word) : (s.writeStatus v).startPos = s.startPos := rfl
@[simp] theorem State.writeStatus_textLen (v : Word) : (s.writeStatus v).textLen = s.textLen := rfl
@[simp] theorem State.writeStatus_bitRate (v : Word) : (s.writeStatus v).bitRate = s.bitRate := rfl
@[simp] theorem State.writeStatus_invert (v : Word) : (s.writeStatus v).invert = s.invert := rfl
@[simp] theorem State.writeStatus_result (v : Word) : (s.writeStatus v).result = s.result := rfl
@[simp] theorem State.writeStatus_slotOffset (v : Word) : (s.writeStatus v).slotOffset = s.slotOffset := rfl
@[simp] theorem State.writeStatus_wordCount (v : Word) : (s.writeStatus v).wordCount = s.wordCount := rfl
@[simp] theorem State.writeStatus_position (v : Word) : (s.writeStatus v).position = s.position := rfl
@[simp] theorem State.writeStatus_sampleCount (v : Word) : (s.writeStatus v).sampleCount = s.sampleCount := rfl
@[simp] theorem State.writeStatus_mem (v : Word) : (s.writeStatus v).mem = s.mem := rfl
@[simp] theorem State.writeStatus_curOp (v : Word) : (s.writeStatus v).curOp = s.curOp := rfl
@[simp] theorem State.writeStatus_work (v : Word) : (s.writeStatus v).work = s.work := rfl
@[simp] theorem State.writeStatus_mph (v : Word) : (s.writeStatus v).mph = s.mph := rfl
@[simp] theorem State.writeStatus_mpos (v : Word) : (s.writeStatus v).mpos = s.mpos := rfl
@[simp] theorem State.writeStatus_events (v : Word) : (s.writeStatus v).events = s.events := rfl
@[simp] theorem State.writeStatus_answers (v : Word) : (s.writeStatus v).answers = s.answers := rfl
@[simp] theorem State.writeStatus_sinkLog (v : Word) : (s.writeStatus v).sinkLog = s.sinkLog := rfl
@[simp] theorem State.writeStatus_reads (v : Word) : (s.writeStatus v).reads = s.reads := rfl
@[simp] theorem State.writeStatus_draws (v : Word) : (s.writeStatus v).draws = s.draws := rfl
@[simp] theorem State.writeStatus_epoch (v : Word) : (s.writeStatus v).epoch = s.epoch := rfl

/-! `State.accept` -/

@[simp] theorem State.accept_status (i : Instr) : (s.accept i).status = s.status.accept i := rfl
@[simp] theorem State.accept_payload (i : Instr) : (s.accept i).payload = s.payload := rfl
@[simp] theorem State.accept_addr (i : Instr) : (s.accept i).addr = s.addr := rfl
@[simp] theorem State.accept_func (i : Instr) : (s.accept i).func = s.func := rfl
@[simp] theorem State.accept_startPos (i : Instr) : (s.accept i).startPos = s.startPos := rfl
@[simp] theorem State.accept_textLen (i : Instr) : (s.accept i).textLen = s.textLen := rfl
@[simp] theorem State.accept_bitRate (i : Instr) : (s.accept i).bitRate = s.bitRate := rfl
@[simp] theorem State.accept_invert (i : Instr) : (s.accept i).invert = s.invert := rfl
@[simp] theorem State.accept_result (i : Instr) : (s.accept i).result = s.result := rfl
@[simp] theorem State.accept_slotOffset (i : Instr) : (s.accept i).slotOffset = s.slotOffset := rfl
@[simp] theorem State.accept_wordCount (i : Instr) : (s.accept i).wordCount = s.wordCount := rfl
@[simp] theorem State.accept_position (i : Instr) : (s.accept i).position = s.position := rfl
@[simp] theorem State.accept_sampleCount (i : Instr) : (s.accept i).sampleCount = s.sampleCount := rfl
@[simp] theorem State.accept_mem (i : Instr) : (s.accept i).mem = s.mem := rfl
@[simp] theorem State.accept_curOp (i : Instr) : (s.accept i).curOp = some i := rfl
@[simp] theorem State.accept_work (i : Instr) : (s.accept i).work = s.work := rfl
@[simp] theorem State.accept_mph (i : Instr) : (s.accept i).mph = s.mph := rfl
@[simp] theorem State.accept_mpos (i : Instr) : (s.accept i).mpos = s.mpos := rfl
@[simp] theorem State.accept_events (i : Instr) : (s.accept i).events = s.events := rfl
@[simp] theorem State.accept_answers (i : Instr) : (s.accept i).answers = s.answers := rfl
@[simp] theorem State.accept_sinkLog (i : Instr) : (s.accept i).sinkLog = s.sinkLog := rfl
@[simp] theorem State.accept_reads (i : Instr) : (s.accept i).reads = s.reads := rfl
@[simp] theorem State.accept_draws (i : Instr) : (s.accept i).draws = s.draws := rfl
@[simp] theorem State.accept_epoch (i : Instr) : (s.accept i).epoch = s.epoch := rfl

/-! `State.complete` -/

@[simp] theorem State.complete_status : (s.complete).status = s.status.complete := rfl
@[simp] theorem State.complete_payload : (s.complete).payload = s.payload := rfl
@[simp] theorem State.complete_addr : (s.complete).addr = s.addr := rfl
@[simp] theorem State.complete_func : (s.complete).func = s.func := rfl
@[simp] theorem State.complete_startPos : (s.complete).startPos = s.startPos := rfl
@[simp] theorem State.complete_textLen : (s.complete).textLen = s.textLen := rfl
@[simp] theorem State.complete_bitRate : (s.complete).bitRate = s.bitRate := rfl
@[simp] theorem State.complete_invert : (s.complete).invert = s.invert := rfl
@[simp] theorem State.complete_result : (s.complete).result = s.result := rfl
@[simp] theorem State.complete_slotOffset : (s.complete).slotOffset = s.slotOffset := rfl
@[simp] theorem State.complete_wordCount : (s.complete).wordCount = s.wordCount := rfl
@[simp] theorem State.complete_position : (s.complete).position = s.position := rfl
@[simp] theorem State.complete_sampleCount : (s.complete).sampleCount = s.sampleCount := rfl
@[simp] theorem State.complete_mem : (s.complete).mem = s.mem := rfl
@[simp] theorem State.complete_curOp : (s.complete).curOp = none := rfl
@[simp] theorem State.complete_work : (s.complete).work = s.work := rfl
@[simp] theorem State.complete_mph : (s.complete).mph = s.mph := rfl
@[simp] theorem State.complete_mpos : (s.complete).mpos = s.mpos := rfl
@[simp] theorem State.complete_events : (s.complete).events = s.events := rfl
@[simp] theorem State.complete_answers : (s.complete).answers = s.answers := rfl
@[simp] theorem State.complete_sinkLog : (s.complete).sinkLog = s.sinkLog := rfl
@[simp] theorem State.complete_reads : (s.complete).reads = s.reads := rfl
@[simp] theorem State.complete_draws : (s.complete).draws = s.draws := rfl
@[simp] theorem State.complete_epoch : (s.complete).epoch = s.epoch := rfl

/-! `State.dropWork` -/

@[simp] theorem State.dropWork_status : (s.dropWork).status = s.status := rfl
@[simp] theorem State.dropWork_payload : (s.dropWork).payload = s.payload := rfl
@[simp] theorem State.dropWork_addr : (s.dropWork).addr = s.addr := rfl
@[simp] theorem State.dropWork_func : (s.dropWork).func = s.func := rfl
@[simp] theorem State.dropWork_startPos : (s.dropWork).startPos = s.startPos := rfl
@[simp] theorem State.dropWork_textLen : (s.dropWork).textLen = s.textLen := rfl
@[simp] theorem State.dropWork_bitRate : (s.dropWork).bitRate = s.bitRate := rfl
@[simp] theorem State.dropWork_invert : (s.dropWork).invert = s.invert := rfl
@[simp] theorem State.dropWork_result : (s.dropWork).result = s.result := rfl
@[simp] theorem State.dropWork_slotOffset : (s.dropWork).slotOffset = s.slotOffset := rfl
@[simp] theorem State.dropWork_wordCount : (s.dropWork).wordCount = s.wordCount := rfl
@[simp] theorem State.dropWork_position : (s.dropWork).position = s.position := rfl
@[simp] theorem State.dropWork_sampleCount : (s.dropWork).sampleCount = s.sampleCount := rfl
@[simp] theorem State.dropWork_mem : (s.dropWork).mem = s.mem := rfl
@[simp] theorem State.dropWork_curOp : (s.dropWork).curOp = s.curOp := rfl
@[simp] theorem State.dropWork_work : (s.dropWork).work = Config.leftoverWork s.draws := rfl
@[simp] theorem State.dropWork_mph : (s.dropWork).mph = s.mph := rfl
@[simp] theorem State.dropWork_mpos : (s.dropWork).mpos = s.mpos := rfl
@[simp] theorem State.dropWork_events : (s.dropWork).events = s.events := rfl
@[simp] theorem State.dropWork_answers : (s.dropWork).answers = s.answers := rfl
@[simp] theorem State.dropWork_sinkLog : (s.dropWork).sinkLog = s.sinkLog := rfl
@[simp] theorem State.dropWork_reads : (s.dropWork).reads = s.reads := rfl
@[simp] theorem State.dropWork_draws : (s.dropWork).draws = s.draws + 1 := rfl
@[simp] theorem State.dropWork_epoch : (s.dropWork).epoch = s.epoch := rfl

/-! `State.dropModulator` -/

@[simp] theorem State.dropModulator_status : (s.dropModulator).status = s.status := rfl
@[simp] theorem State.dropModulator_payload : (s.dropModulator).payload = s.payload := rfl
@[simp] theorem State.dropModulator_addr : (s.dropModulator).addr = s.addr := rfl
@[simp] theorem State.dropModulator_func : (s.dropModulator).func = s.func := rfl
@[simp] theorem State.dropModulator_startPos : (s.dropModulator).startPos = s.startPos := rfl
@[simp] theorem State.dropModulator_textLen : (s.dropModulator).textLen = s.textLen := rfl
@[simp] theorem State.dropModulator_bitRate : (s.dropModulator).bitRate = s.bitRate := rfl
@[simp] theorem State.dropModulator_invert : (s.dropModulator).invert = s.invert := rfl
@[simp] theorem State.dropModulator_result : (s.dropModulator).result = s.result := rfl
@[simp] theorem State.dropModulator_slotOffset : (s.dropModulator).slotOffset = s.slotOffset := rfl
@[simp] theorem State.dropModulator_wordCount : (s.dropModulator).wordCount = s.wordCount := rfl
@[simp] theorem State.dropModulator_position : (s.dropModulator).position = s.position := rfl
@[simp] theorem State.dropModulator_sampleCount : (s.dropModulator).sampleCount = s.sampleCount := rfl
@[simp] theorem State.dropModulator_mem : (s.dropModulator).mem = s.mem := rfl
@[simp] theorem State.dropModulator_curOp : (s.dropModulator).curOp = s.curOp := rfl
@[simp] theorem State.dropModulator_work : (s.dropModulator).work = s.work := rfl
@[simp] theorem State.dropModulator_mph : (s.dropModulator).mph = .idle := rfl
@[simp] theorem State.dropModulator_mpos : (s.dropModulator).mpos = Config.leftoverPos s.draws := rfl
@[simp] theorem State.dropModulator_events : (s.dropModulator).events = s.events := rfl
@[simp] theorem State.dropModulator_answers : (s.dropModulator).answers = s.answers := rfl
@[simp] theorem State.dropModulator_sinkLog : (s.dropModulator).sinkLog = s.sinkLog := rfl
@[simp] theorem State.dropModulator_reads : (s.dropModulator).reads = s.reads := rfl
@[simp] theorem State.dropModulator_draws : (s.dropModulator).draws = s.draws + 1 := rfl
@[simp] theorem State.dropModulator_epoch : (s.dropModulator).epoch = s.epoch := rfl

/-! `State.finishCompute` -/

@[simp] theorem State.finishCompute_status : (s.finishCompute).status = s.status.complete := rfl
@[simp] theorem State.finishCompute_payload : (s.finishCompute).payload = s.payload := rfl
@[simp] theorem State.finishCompute_addr : (s.finishCompute).addr = s.addr := rfl
@[simp] theorem State.finishCompute_func : (s.finishCompute).func = s.func := rfl
@[simp] theorem State.finishCompute_startPos : (s.finishCompute).startPos = s.startPos := rfl
@[simp] theorem State.finishCompute_textLen : (s.finishCompute).textLen = s.textLen := rfl
@[simp] theorem State.finishCompute_bitRate : (s.finishCompute).bitRate = s.bitRate := rfl
@[simp] theorem State.finishCompute_invert : (s.finishCompute).invert = s.invert := rfl
@[simp] theorem State.finishCompute_result : (s.finishCompute).result = s.result := rfl
@[simp] theorem State.finishCompute_slotOffset : (s.finishCompute).slotOffset = s.slotOffset := rfl
@[simp] theorem State.finishCompute_wordCount : (s.finishCompute).wordCount = s.wordCount := rfl
@[simp] theorem State.finishCompute_position : (s.finishCompute).position = s.position := rfl
@[simp] theorem State.finishCompute_sampleCount : (s.finishCompute).sampleCount = s.sampleCount := rfl
@[simp] theorem State.finishCompute_mem : (s.finishCompute).mem = s.mem := rfl
@[simp] theorem State.finishCompute_curOp : (s.finishCompute).curOp = none := rfl
@[simp] theorem State.finishCompute_work : (s.finishCompute).work = Config.leftoverWork s.draws := rfl
@[simp] theorem State.finishCompute_mph : (s.finishCompute).mph = s.mph := rfl
@[simp] theorem State.finishCompute_mpos : (s.finishCompute).mpos = s.mpos := rfl
@[simp] theorem State.finishCompute_events : (s.finishCompute).events = s.events := rfl
@[simp] theorem State.finishCompute_answers : (s.finishCompute).answers = s.answers := rfl
@[simp] theorem State.finishCompute_sinkLog : (s.finishCompute).sinkLog = s.sinkLog := rfl
@[simp] theorem State.finishCompute_reads : (s.finishCompute).reads = s.reads := rfl
@[simp] theorem State.finishCompute_draws : (s.finishCompute).draws = s.draws + 1 := rfl
@[simp] theorem State.finishCompute_epoch : (s.finishCompute).epoch = s.epoch := rfl

/-! `State.sinkFail` -/

@[simp] theorem State.sinkFail_status : (s.sinkFail).status = (s.status.raise .sinkFail).abandon := rfl
@[simp] theorem State.sinkFail_payload : (s.sinkFail).payload = s.payload := rfl
@[simp] theorem State.sinkFail_addr : (s.sinkFail).addr = s.addr := rfl
@[simp] theorem State.sinkFail_func : (s.sinkFail).func = s.func := rfl
@[simp] theorem State.sinkFail_startPos : (s.sinkFail).startPos = s.startPos := rfl
@[simp] theorem State.sinkFail_textLen : (s.sinkFail).textLen = s.textLen := rfl
@[simp] theorem State.sinkFail_bitRate : (s.sinkFail).bitRate = s.bitRate := rfl
@[simp] theorem State.sinkFail_invert : (s.sinkFail).invert = s.invert := rfl
@[simp] theorem State.sinkFail_result : (s.sinkFail).result = s.result := rfl
@[simp] theorem State.sinkFail_slotOffset : (s.sinkFail).slotOffset = s.slotOffset := rfl
@[simp] theorem State.sinkFail_wordCount : (s.sinkFail).wordCount = s.wordCount := rfl
@[simp] theorem State.sinkFail_position : (s.sinkFail).position = s.position := rfl
@[simp] theorem State.sinkFail_sampleCount : (s.sinkFail).sampleCount = s.sampleCount := rfl
@[simp] theorem State.sinkFail_mem : (s.sinkFail).mem = s.mem := rfl
@[simp] theorem State.sinkFail_curOp : (s.sinkFail).curOp = none := rfl
@[simp] theorem State.sinkFail_work : (s.sinkFail).work = s.work := rfl
@[simp] theorem State.sinkFail_mph : (s.sinkFail).mph = .idle := rfl
@[simp] theorem State.sinkFail_mpos : (s.sinkFail).mpos = Config.leftoverPos s.draws := rfl
@[simp] theorem State.sinkFail_events : (s.sinkFail).events = s.events := rfl
@[simp] theorem State.sinkFail_answers : (s.sinkFail).answers = s.answers := rfl
@[simp] theorem State.sinkFail_sinkLog : (s.sinkFail).sinkLog = s.sinkLog := rfl
@[simp] theorem State.sinkFail_reads : (s.sinkFail).reads = s.reads := rfl
@[simp] theorem State.sinkFail_draws : (s.sinkFail).draws = s.draws + 1 := rfl
@[simp] theorem State.sinkFail_epoch : (s.sinkFail).epoch = s.epoch := rfl

/-! `State.logSink` -/

@[simp] theorem State.logSink_status (o : SinkOp) : (s.logSink o).status = s.status := rfl
@[simp] theorem State.logSink_payload (o : SinkOp) : (s.logSink o).payload = s.payload := rfl
@[simp] theorem State.logSink_addr (o : SinkOp) : (s.logSink o).addr = s.addr := rfl
@[simp] theorem State.logSink_func (o : SinkOp) : (s.logSink o).func = s.func := rfl
@[simp] theorem State.logSink_startPos (o : SinkOp) : (s.logSink o).startPos = s.startPos := rfl
@[simp] theorem State.logSink_textLen (o : SinkOp) : (s.logSink o).textLen = s.textLen := rfl
@[simp] theorem State.logSink_bitRate (o : SinkOp) : (s.logSink o).bitRate = s.bitRate := rfl
@[simp] theorem State.logSink_invert (o : SinkOp) : (s.logSink o).invert = s.invert := rfl
@[simp] theorem State.logSink_result (o : SinkOp) : (s.logSink o).result = s.result := rfl
@[simp] theorem State.logSink_slotOffset (o : SinkOp) : (s.logSink o).slotOffset = s.slotOffset := rfl
@[simp] theorem State.logSink_wordCount (o : SinkOp) : (s.logSink o).wordCount = s.wordCount := rfl
@[simp] theorem State.logSink_position (o : SinkOp) : (s.logSink o).position = s.position := rfl
@[simp] theorem State.logSink_sampleCount (o : SinkOp) : (s.logSink o).sampleCount = s.sampleCount := rfl
@[simp] theorem State.logSink_mem (o : SinkOp) : (s.logSink o).mem = s.mem := rfl
@[simp] theorem State.logSink_curOp (o : SinkOp) : (s.logSink o).curOp = s.curOp := rfl
@[simp] theorem State.logSink_work (o : SinkOp) : (s.logSink o).work = s.work := rfl
@[simp] theorem State.logSink_mph (o : SinkOp) : (s.logSink o).mph = s.mph := rfl
@[simp] theorem State.logSink_mpos (o : SinkOp) : (s.logSink o).mpos = s.mpos := rfl
@[simp] theorem State.logSink_events (o : SinkOp) : (s.logSink o).events = s.events := rfl
@[simp] theorem State.logSink_answers (o : SinkOp) : (s.logSink o).answers = s.answers := rfl
@[simp] theorem State.logSink_sinkLog (o : SinkOp) : (s.logSink o).sinkLog = o :: s.sinkLog := rfl
@[simp] theorem State.logSink_reads (o : SinkOp) : (s.logSink o).reads = s.reads := rfl
@[simp] theorem State.logSink_draws (o : SinkOp) : (s.logSink o).draws = s.draws := rfl
@[simp] theorem State.logSink_epoch (o : SinkOp) : (s.logSink o).epoch = s.epoch := rfl

/-! `State.logRead` -/

@[simp] theorem State.logRead_status (off : Nat) (v : Word) : (s.logRead off v).status = s.status := rfl
@[simp] theorem State.logRead_payload (off : Nat) (v : Word) : (s.logRead off v).payload = s.payload := rfl
@[simp] theorem State.logRead_addr (off : Nat) (v : Word) : (s.logRead off v).addr = s.addr := rfl
@[simp] theorem State.logRead_func (off : Nat) (v : Word) : (s.logRead off v).func = s.func := rfl
@[simp] theorem State.logRead_startPos (off : Nat) (v : Word) : (s.logRead off v).startPos = s.startPos := rfl
@[simp] theorem State.logRead_textLen (off : Nat) (v : Word) : (s.logRead off v).textLen = s.textLen := rfl
@[simp] theorem State.logRead_bitRate (off : Nat) (v : Word) : (s.logRead off v).bitRate = s.bitRate := rfl
@[simp] theorem State.logRead_invert (off : Nat) (v : Word) : (s.logRead off v).invert = s.invert := rfl
@[simp] theorem State.logRead_result (off : Nat) (v : Word) : (s.logRead off v).result = s.result := rfl
@[simp] theorem State.logRead_slotOffset (off : Nat) (v : Word) : (s.logRead off v).slotOffset = s.slotOffset := rfl
@[simp] theorem State.logRead_wordCount (off : Nat) (v : Word) : (s.logRead off v).wordCount = s.wordCount := rfl
@[simp] theorem State.logRead_position (off : Nat) (v : Word) : (s.logRead off v).position = s.position := rfl
@[simp] theorem State.logRead_sampleCount (off : Nat) (v : Word) : (s.logRead off v).sampleCount = s.sampleCount := rfl
@[simp] theorem State.logRead_mem (off : Nat) (v : Word) : (s.logRead off v).mem = s.mem := rfl
@[simp] theorem State.logRead_curOp (off : Nat) (v : Word) : (s.logRead off v).curOp = s.curOp := rfl
@[simp] theorem State.logRead_work (off : Nat) (v : Word) : (s.logRead off v).work = s.work := rfl
@[simp] theorem State.logRead_mph (off : Nat) (v : Word) : (s.logRead off v).mph = s.mph := rfl
@[simp] theorem State.logRead_mpos (off : Nat) (v : Word) : (s.logRead off v).mpos = s.mpos := rfl
@[simp] theorem State.logRead_events (off : Nat) (v : Word) : (s.logRead off v).events = s.events := rfl
@[simp] theorem State.logRead_answers (off : Nat) (v : Word) : (s.logRead off v).answers = s.answers := rfl
@[simp] theorem State.logRead_sinkLog (off : Nat) (v : Word) : (s.logRead off v).sinkLog = s.sinkLog := rfl
@[simp] theorem State.logRead_reads (off : Nat) (v : Word) : (s.logRead off v).reads = (off, v) :: s.reads := rfl
@[simp] theorem State.logRead_draws (off : Nat) (v : Word) : (s.logRead off v).draws = s.draws := rfl
@[simp] theorem State.logRead_epoch (off : Nat) (v : Word) : (s.logRead off v).epoch = s.epoch := rfl

/-! `State.setText` -/

@[simp] theorem State.setText_status (k : Nat) (v : Byte) : (s.setText k v).status = s.status := rfl
@[simp] theorem State.setText_payload (k : Nat) (v : Byte) : (s.setText k v).payload = s.payload := rfl
@[simp] theorem State.setText_addr (k : Nat) (v : Byte) : (s.setText k v).addr = s.addr := rfl
@[simp] theorem State.setText_func (k : Nat) (v : Byte) : (s.setText k v).func = s.func := rfl
@[simp] theorem State.setText_startPos (k : Nat) (v : Byte) : (s.setText k v).startPos = s.startPos := rfl
@[simp] theorem State.setText_textLen (k : Nat) (v : Byte) : (s.setText k v).textLen = s.textLen := rfl
@[simp] theorem State.setText_bitRate (k : Nat) (v : Byte) : (s.setText k v).bitRate = s.bitRate := rfl
@[simp] theorem State.setText_invert (k : Nat) (v : Byte) : (s.setText k v).invert = s.invert := rfl
@[simp] theorem State.setText_result (k : Nat) (v : Byte) : (s.setText k v).result = s.result := rfl
@[simp] theorem State.setText_slotOffset (k : Nat) (v : Byte) : (s.setText k v).slotOffset = s.slotOffset := rfl
@[simp] theorem State.setText_wordCount (k : Nat) (v : Byte) : (s.setText k v).wordCount = s.wordCount := rfl
@[simp] theorem State.setText_position (k : Nat) (v : Byte) : (s.setText k v).position = s.position := rfl
@[simp] theorem State.setText_sampleCount (k : Nat) (v : Byte) : (s.setText k v).sampleCount = s.sampleCount := rfl
@[simp] theorem State.setText_mem (k : Nat) (v : Byte) : (s.setText k v).mem = { s.mem with text := Buf.set k v s.mem.text } := rfl
@[simp] theorem State.setText_curOp (k : Nat) (v : Byte) : (s.setText k v).curOp = s.curOp := rfl
@[simp] theorem State.setText_work (k : Nat) (v : Byte) : (s.setText k v).work = s.work := rfl
@[simp] theorem State.setText_mph (k : Nat) (v : Byte) : (s.setText k v).mph = s.mph := rfl
@[simp] theorem State.setText_mpos (k : Nat) (v : Byte) : (s.setText k v).mpos = s.mpos := rfl
@[simp] theorem State.setText_events (k : Nat) (v : Byte) : (s.setText k v).events = s.events := rfl
@[simp] theorem State.setText_answers (k : Nat) (v : Byte) : (s.setText k v).answers = s.answers := rfl
@[simp] theorem State.setText_sinkLog (k : Nat) (v : Byte) : (s.setText k v).sinkLog = s.sinkLog := rfl
@[simp] theorem State.setText_reads (k : Nat) (v : Byte) : (s.setText k v).reads = s.reads := rfl
@[simp] theorem State.setText_draws (k : Nat) (v : Byte) : (s.setText k v).draws = s.draws := rfl
@[simp] theorem State.setText_epoch (k : Nat) (v : Byte) : (s.setText k v).epoch = s.epoch := rfl

/-! `State.setWord` -/

@[simp] theorem State.setWord_status (k : Nat) (v : Word) : (s.setWord k v).status = s.status := rfl
@[simp] theorem State.setWord_payload (k : Nat) (v : Word) : (s.setWord k v).payload = s.payload := rfl
@[simp] theorem State.setWord_addr (k : Nat) (v : Word) : (s.setWord k v).addr = s.addr := rfl
@[simp] theorem State.setWord_func (k : Nat) (v : Word) : (s.setWord k v).func = s.func := rfl
@[simp] theorem State.setWord_startPos (k : Nat) (v : Word) : (s.setWord k v).startPos = s.startPos := rfl
@[simp] theorem State.setWord_textLen (k : Nat) (v : Word) : (s.setWord k v).textLen = s.textLen := rfl
@[simp] theorem State.setWord_bitRate (k : Nat) (v : Word) : (s.setWord k v).bitRate = s.bitRate := rfl
@[simp] theorem State.setWord_invert (k : Nat) (v : Word) : (s.setWord k v).invert = s.invert := rfl
@[simp] theorem State.setWord_result (k : Nat) (v : Word) : (s.setWord k v).result = s.result := rfl
@[simp] theorem State.setWord_slotOffset (k : Nat) (v : Word) : (s.setWord k v).slotOffset = s.slotOffset := rfl
@[simp] theorem State.setWord_wordCount (k : Nat) (v : Word) : (s.setWord k v).wordCount = s.wordCount := rfl
@[simp] theorem State.setWord_position (k : Nat) (v : Word) : (s.setWord k v).position = s.position := rfl
@[simp] theorem State.setWord_sampleCount (k : Nat) (v : Word) : (s.setWord k v).sampleCount = s.sampleCount := rfl
@[simp] theorem State.setWord_mem (k : Nat) (v : Word) : (s.setWord k v).mem = { s.mem with word := Buf.set k v s.mem.word } := rfl
@[simp] theorem State.setWord_curOp (k : Nat) (v : Word) : (s.setWord k v).curOp = s.curOp := rfl
@[simp] theorem State.setWord_work (k : Nat) (v : Word) : (s.setWord k v).work = s.work := rfl
@[simp] theorem State.setWord_mph (k : Nat) (v : Word) : (s.setWord k v).mph = s.mph := rfl
@[simp] theorem State.setWord_mpos (k : Nat) (v : Word) : (s.setWord k v).mpos = s.mpos := rfl
@[simp] theorem State.setWord_events (k : Nat) (v : Word) : (s.setWord k v).events = s.events := rfl
@[simp] theorem State.setWord_answers (k : Nat) (v : Word) : (s.setWord k v).answers = s.answers := rfl
@[simp] theorem State.setWord_sinkLog (k : Nat) (v : Word) : (s.setWord k v).sinkLog = s.sinkLog := rfl
@[simp] theorem State.setWord_reads (k : Nat) (v : Word) : (s.setWord k v).reads = s.reads := rfl
@[simp] theorem State.setWord_draws (k : Nat) (v : Word) : (s.setWord k v).draws = s.draws := rfl
@[simp] theorem State.setWord_epoch (k : Nat) (v : Word) : (s.setWord k v).epoch = s.epoch := rfl

/-! `State.putWords` -/

@[simp] theorem State.putWords_status (ws : List Word) : (s.putWords ws).status = s.status := rfl
@[simp] theorem State.putWords_payload (ws : List Word) : (s.putWords ws).payload = s.payload := rfl
@[simp] theorem State.putWords_addr (ws : List Word) : (s.putWords ws).addr = s.addr := rfl
@[simp] theorem State.putWords_func (ws : List Word) : (s.putWords ws).func = s.func := rfl
@[simp] theorem State.putWords_startPos (ws : List Word) : (s.putWords ws).startPos = s.startPos := rfl
@[simp] theorem State.putWords_textLen (ws : List Word) : (s.putWords ws).textLen = s.textLen := rfl
@[simp] theorem State.putWords_bitRate (ws : List Word) : (s.putWords ws).bitRate = s.bitRate := rfl
@[simp] theorem State.putWords_invert (ws : List Word) : (s.putWords ws).invert = s.invert := rfl
@[simp] theorem State.putWords_result (ws : List Word) : (s.putWords ws).result = s.result := rfl
@[simp] theorem State.putWords_slotOffset (ws : List Word) : (s.putWords ws).slotOffset = s.slotOffset := rfl
@[simp] theorem State.putWords_wordCount (ws : List Word) : (s.putWords ws).wordCount = BitVec.ofNat 32 ws.length := rfl
@[simp] theorem State.putWords_position (ws : List Word) : (s.putWords ws).position = s.position := rfl
@[simp] theorem State.putWords_sampleCount (ws : List Word) : (s.putWords ws).sampleCount = s.sampleCount := rfl
@[simp] theorem State.putWords_mem (ws : List Word) : (s.putWords ws).mem = { s.mem with word := Buf.setFrom 0 ws s.mem.word } := rfl
@[simp] theorem State.putWords_curOp (ws : List Word) : (s.putWords ws).curOp = s.curOp := rfl
@[simp] theorem State.putWords_work (ws : List Word) : (s.putWords ws).work = s.work := rfl
@[simp] theorem State.putWords_mph (ws : List Word) : (s.putWords ws).mph = s.mph := rfl
@[simp] theorem State.putWords_mpos (ws : List Word) : (s.putWords ws).mpos = s.mpos := rfl
@[simp] theorem State.putWords_events (ws : List Word) : (s.putWords ws).events = s.events := rfl
@[simp] theorem State.putWords_answers (ws : List Word) : (s.putWords ws).answers = s.answers := rfl
@[simp] theorem State.putWords_sinkLog (ws : List Word) : (s.putWords ws).sinkLog = s.sinkLog := rfl
@[simp] theorem State.putWords_reads (ws : List Word) : (s.putWords ws).reads = s.reads := rfl
@[simp] theorem State.putWords_draws (ws : List Word) : (s.putWords ws).draws = s.draws := rfl
@[simp] theorem State.putWords_epoch (ws : List Word) : (s.putWords ws).epoch = s.epoch := rfl

/-! `State.sampleAccepted` -/

@[simp] theorem State.sampleAccepted_status : (s.sampleAccepted).status = s.status := rfl
@[simp] theorem State.sampleAccepted_payload : (s.sampleAccepted).payload = s.payload := rfl
@[simp] theorem State.sampleAccepted_addr : (s.sampleAccepted).addr = s.addr := rfl
@[simp] theorem State.sampleAccepted_func : (s.sampleAccepted).func = s.func := rfl
@[simp] theorem State.sampleAccepted_startPos : (s.sampleAccepted).startPos = s.startPos := rfl
@[simp] theorem State.sampleAccepted_textLen : (s.sampleAccepted).textLen = s.textLen := rfl
@[simp] theorem State.sampleAccepted_bitRate : (s.sampleAccepted).bitRate = s.bitRate := rfl
@[simp] theorem State.sampleAccepted_invert : (s.sampleAccepted).invert = s.invert := rfl
@[simp] theorem State.sampleAccepted_result : (s.sampleAccepted).result = s.result := rfl
@[simp] theorem State.sampleAccepted_slotOffset : (s.sampleAccepted).slotOffset = s.slotOffset := rfl
@[simp] theorem State.sampleAccepted_wordCount : (s.sampleAccepted).wordCount = s.wordCount := rfl
@[simp] theorem State.sampleAccepted_position : (s.sampleAccepted).position = s.position := rfl
@[simp] theorem State.sampleAccepted_sampleCount : (s.sampleAccepted).sampleCount = s.sampleCount + 1#32 := rfl
@[simp] theorem State.sampleAccepted_mem : (s.sampleAccepted).mem = s.mem := rfl
@[simp] theorem State.sampleAccepted_curOp : (s.sampleAccepted).curOp = s.curOp := rfl
@[simp] theorem State.sampleAccepted_work : (s.sampleAccepted).work = s.work := rfl
@[simp] theorem State.sampleAccepted_mph : (s.sampleAccepted).mph = if s.mpos.ms + 1 = s.mpos.spbL ∧ (nextPos s.mpos).mw = s.wordCountArg then .closing else s.mph := rfl
@[simp] theorem State.sampleAccepted_mpos : (s.sampleAccepted).mpos = nextPos s.mpos := rfl
@[simp] theorem State.sampleAccepted_events : (s.sampleAccepted).events = s.events := rfl
@[simp] theorem State.sampleAccepted_answers : (s.sampleAccepted).answers = s.answers := rfl
@[simp] theorem State.sampleAccepted_sinkLog : (s.sampleAccepted).sinkLog = s.sinkLog := rfl
@[simp] theorem State.sampleAccepted_reads : (s.sampleAccepted).reads = s.reads := rfl
@[simp] theorem State.sampleAccepted_draws : (s.sampleAccepted).draws = s.draws := rfl
@[simp] theorem State.sampleAccepted_epoch : (s.sampleAccepted).epoch = s.epoch := rfl

/-! The free value of an unwritten entry, seen through the updates that leave the buffers alone. -/

@[simp] theorem State.raiseErr_textEntry (c : ErrCode) (k : Nat) : (s.raiseErr c).textEntry k = s.textEntry k := rfl
@[simp] theorem State.raiseErr_wordEntry (c : ErrCode) (k : Nat) : (s.raiseErr c).wordEntry k = s.wordEntry k := rfl
@[simp] theorem State.writeStatus_textEntry (v : Word) (k : Nat) : (s.writeStatus v).textEntry k = s.textEntry k := rfl
@[simp] theorem State.writeStatus_wordEntry (v : Word) (k : Nat) : (s.writeStatus v).wordEntry k = s.wordEntry k := rfl
@[simp] theorem State.accept_textEntry (i : Instr) (k : Nat) : (s.accept i).textEntry k = s.textEntry k := rfl
@[simp] theorem State.accept_wordEntry (i : Instr) (k : Nat) : (s.accept i).wordEntry k = s.wordEntry k := rfl
@[simp] theorem State.complete_textEntry (k : Nat) : (s.complete).textEntry k = s.textEntry k := rfl
@[simp] theorem State.complete_wordEntry (k : Nat) : (s.complete).wordEntry k = s.wordEntry k := rfl
@[simp] theorem State.dropWork_textEntry (k : Nat) : (s.dropWork).textEntry k = s.textEntry k := rfl
@[simp] theorem State.dropWork_wordEntry (k : Nat) : (s.dropWork).wordEntry k = s.wordEntry k := rfl
@[simp] theorem State.dropModulator_textEntry (k : Nat) : (s.dropModulator).textEntry k = s.textEntry k := rfl
@[simp] theorem State.dropModulator_wordEntry (k : Nat) : (s.dropModulator).wordEntry k = s.wordEntry k := rfl
@[simp] theorem State.finishCompute_textEntry (k : Nat) : (s.finishCompute).textEntry k = s.textEntry k := rfl
@[simp] theorem State.finishCompute_wordEntry (k : Nat) : (s.finishCompute).wordEntry k = s.wordEntry k := rfl
@[simp] theorem State.sinkFail_textEntry (k : Nat) : (s.sinkFail).textEntry k = s.textEntry k := rfl
@[simp] theorem State.sinkFail_wordEntry (k : Nat) : (s.sinkFail).wordEntry k = s.wordEntry k := rfl
@[simp] theorem State.logSink_textEntry (o : SinkOp) (k : Nat) : (s.logSink o).textEntry k = s.textEntry k := rfl
@[simp] theorem State.logSink_wordEntry (o : SinkOp) (k : Nat) : (s.logSink o).wordEntry k = s.wordEntry k := rfl
@[simp] theorem State.logRead_textEntry (off : Nat) (v : Word) (k : Nat) : (s.logRead off v).textEntry k = s.textEntry k := rfl
@[simp] theorem State.logRead_wordEntry (off : Nat) (v : Word) (k : Nat) : (s.logRead off v).wordEntry k = s.wordEntry k := rfl
@[simp] theorem State.sampleAccepted_textEntry (k : Nat) : (s.sampleAccepted).textEntry k = s.textEntry k := rfl
@[simp] theorem State.sampleAccepted_wordEntry (k : Nat) : (s.sampleAccepted).wordEntry k = s.wordEntry k := rfl

end Sys2Proof.Machine
end

