-- ==== Sys2Proof/Laws/Outcomes.lean ====
section
/-!
SUPPORT. What each shared operation can answer, said once: later proofs cite these and do not unfold the operation.
-/

namespace Sys2Proof.Machine

open Host (Outcome)

variable {p : Params} {i : Instr} {s t : State}
variable {check : State → Option ErrCode} {start : State → State}
variable {coreStep : State → Outcome State Fault Refusal}

theorem State.running_iff : s.running i = true ↔ s.status.busy = true ∧ s.curOp = some i := by
  simp [State.running]

theorem perform_running (h : s.running i = true) : perform i check start coreStep s = coreStep s := if_pos h

theorem perform_not_running (h : s.running i = false) :
    perform i check start coreStep s = submit i check start s := by simp [perform, h]

theorem submit_busy (h : s.status.busy = true) : submit i check start s = .next (s.raiseErr .cmdBusy) := if_pos h

theorem submit_refused {c : ErrCode} (h : s.status.busy = false) (hc : check s = some c) :
    submit i check start s = .next (s.raiseErr c) := by simp [submit, h, hc]

theorem submit_accepted (h : s.status.busy = false) (hc : check s = none) :
    submit i check start s = .next (start (s.accept i)) := by simp [submit, h, hc]

/-- Submitting a command always answers a next state: an error recorded, or the command accepted. -/
theorem submit_cases (i : Instr) (check : State → Option ErrCode) (start : State → State) (s : State) :
    (s.status.busy = true ∧ submit i check start s = .next (s.raiseErr .cmdBusy)) ∨
    (∃ c, s.status.busy = false ∧ check s = some c ∧ submit i check start s = .next (s.raiseErr c)) ∨
    (s.status.busy = false ∧ check s = none ∧ submit i check start s = .next (start (s.accept i))) := by
  cases hb : s.status.busy
  · cases hc : check s with
    | none => exact .inr (.inr ⟨rfl, rfl, submit_accepted hb hc⟩)
    | some c => exact .inr (.inl ⟨c, rfl, rfl, submit_refused hb hc⟩)
  · exact .inl ⟨rfl, submit_busy hb⟩

/-- What is due for command `i` answers: its core step where it is running, and otherwise what submitting it answers. -/
theorem perform_next (h : perform i check start coreStep s = .next t) :
    (s.running i = true ∧ coreStep s = .next t) ∨
    (s.running i = false ∧ s.status.busy = true ∧ t = s.raiseErr .cmdBusy) ∨
    (∃ c, s.status.busy = false ∧ check s = some c ∧ t = s.raiseErr c) ∨
    (s.status.busy = false ∧ check s = none ∧ t = start (s.accept i)) := by
  cases hr : s.running i
  · rw [perform_not_running hr] at h
    rcases submit_cases i check start s with ⟨hb, hs⟩ | ⟨c, hb, hc, hs⟩ | ⟨hb, hc, hs⟩ <;> rw [hs] at h <;> cases h
    · exact .inr (.inl ⟨rfl, hb, rfl⟩)
    · exact .inr (.inr (.inl ⟨c, hb, hc, rfl⟩))
    · exact .inr (.inr (.inr ⟨hb, hc, rfl⟩))
  · rw [perform_running hr] at h
    exact .inl ⟨rfl, h⟩

/-! The sink's answers. -/

/-- Taking an answer changes nothing but the answers to come and the count of free values. -/
theorem State.takeSettled_frame (s : State) :
    ∃ as d, s.takeSettled.2 = { s with answers := as, draws := d } := by
  unfold State.takeSettled
  split
  · exact ⟨_, s.draws, rfl⟩
  · exact ⟨[], s.draws + 1, rfl⟩

theorem State.takeWriteAnswer_frame (s : State) :
    ∃ as d, s.takeWriteAnswer.2 = { s with answers := as, draws := d } := by
  unfold State.takeWriteAnswer
  split
  · exact ⟨_, s.draws, rfl⟩
  · next h => exact ⟨s.answers, s.draws + 1, rfl⟩

theorem State.takeSettled_cons {a : SinkAnswer} {as : List SinkAnswer} (ha : a ≠ .held) (h : s.answers = a :: as) :
    s.takeSettled = (decide (a = .ok), { s with answers := as }) := by
  cases a <;> simp_all [State.takeSettled]

theorem State.takeWriteAnswer_cons {a : SinkAnswer} {as : List SinkAnswer} (h : s.answers = a :: as) :
    s.takeWriteAnswer = (a, { s with answers := as }) := by
  simp only [State.takeWriteAnswer, h]

/-! The steps of MODULATE. -/

theorem openStep_fail (h : s.takeSettled.1 = false) :
    openStep s = (s.takeSettled.2.logSink (.opened false)).sinkFail := by
  simp [openStep, h]

theorem openStep_empty (h : s.takeSettled.1 = true) (hn : s.wordCountArg = 0) :
    openStep s = { s.takeSettled.2.logSink (.opened true) with mph := .closing } := by
  simp [openStep, h, hn]

theorem openStep_stream (h : s.takeSettled.1 = true) (hn : s.wordCountArg ≠ 0) :
    openStep s = { s.takeSettled.2.logSink (.opened true) with
      mph := .stream, mpos := { s.takeSettled.2.mpos with mw := 0, mb := 31, ms := 0 } } := by
  simp [openStep, h, hn]

theorem streamStep_held (h : s.takeWriteAnswer.1 = .held) : streamStep s = s.takeWriteAnswer.2 := by
  simp [streamStep, h]

theorem streamStep_fail (h : s.takeWriteAnswer.1 = .fail) :
    streamStep s = (s.takeWriteAnswer.2.logSink (.wrote s.currentLevel false)).sinkFail := by
  simp [streamStep, h]

theorem streamStep_ok (h : s.takeWriteAnswer.1 = .ok) :
    streamStep s = (s.takeWriteAnswer.2.logSink (.wrote s.currentLevel true)).sampleAccepted := by
  simp [streamStep, h]

theorem closeStep_ok (h : s.takeSettled.1 = true) :
    closeStep s = (s.takeSettled.2.logSink (.closed true)).complete.dropModulator := by
  simp [closeStep, h]

theorem closeStep_fail (h : s.takeSettled.1 = false) :
    closeStep s = (s.takeSettled.2.logSink (.closed false)).sinkFail := by
  simp [closeStep, h]

/-! The bus and the interleaving. -/

/-- A mapped offset is what its target stands at, and the target exists. -/
theorem target?_some {off : Nat} {g : Target} (h : target? p off = some g) :
    match g with
    | .reg r => off = r.offset
    | .text k => k < p.textMax ∧ off = 0x400 + 4 * k
    | .word k => k < p.wordMax ∧ off = 0x800 + 4 * k := by
  unfold target? at h
  split at h
  · cases h
  · split at h
    · obtain ⟨r, hr, rfl⟩ := Option.map_eq_some_iff.1 h
      unfold Reg.at? at hr
      split at hr <;> cases hr <;> rfl
    · split at h
      · split at h <;> cases h
        next h4 h5 _ h6 => exact ⟨h6, by omega⟩
      · split at h <;> cases h
        next h4 h5 _ h6 => exact ⟨h6, by omega⟩

/-- `exec` is the meanings at `Config.params`. -/
theorem exec_eq_execWith (i : Instr) (s : State) : exec i s = execWith Config.params i s := by
  cases i <;> rfl

theorem step_eq_transition (s : State) : step s = transition Config.params (execWith Config.params) s := by
  have h : exec = execWith Config.params := funext fun i => funext fun s => exec_eq_execWith i s
  unfold step
  rw [h]

/-- One transition, by the head of `events`. -/
theorem transition_nil {run : Instr → State → Outcome State Fault Refusal} (h : s.events = []) :
    transition p run s = coreTurn run s := by simp [transition, h]

theorem transition_core {run : Instr → State → Outcome State Fault Refusal} {es : List Event}
    (h : s.events = .core :: es) : transition p run s = coreTurn run { s with events := es } := by
  simp [transition, h]

theorem transition_reset {run : Instr → State → Outcome State Fault Refusal} {es : List Event}
    (h : s.events = .reset :: es) : transition p run s = .next (resetBlock { s with events := es }) := by
  simp [transition, h]

theorem transition_access {run : Instr → State → Outcome State Fault Refusal} {a : Access} {es : List Event}
    (h : s.events = .access a :: es) : transition p run s = busAccess p run a { s with events := es } := by
  simp [transition, h]

theorem coreTurn_running {run : Instr → State → Outcome State Fault Refusal} (hb : s.status.busy = true)
    (hc : s.curOp = some i) : coreTurn run s = run i s := by simp [coreTurn, hb, hc]

/-- The core's turn answers the running command's step, and otherwise the state as it is. -/
theorem coreTurn_next {run : Instr → State → Outcome State Fault Refusal} (h : coreTurn run s = .next t) :
    (∃ i, s.status.busy = true ∧ s.curOp = some i ∧ run i s = .next t) ∨
    ((s.status.busy = false ∨ s.curOp = none) ∧ t = s) := by
  unfold coreTurn at h
  split at h
  · next hb =>
    split at h
    · next i hi => exact .inl ⟨i, hb, hi, h⟩
    · next hn => cases h; exact .inr ⟨.inr hn, rfl⟩
  · next hb => cases h; exact .inr ⟨.inl (by simpa using hb), rfl⟩

/-- What a host access that is no BusError answers: a read's record, or a write's effect. -/
theorem busAccess_next {run : Instr → State → Outcome State Fault Refusal} {a : Access}
    (h : busAccess p run a s = .next t) :
    (∃ off g, a = .read off 4 ∧ target? p off = some g ∧ t = readTarget p off g s) ∨
    (∃ off v g, a = .write off 4 v ∧ target? p off = some g ∧ writeTarget run v g s = .next t) := by
  cases a with
  | read off n =>
    simp only [busAccess] at h
    split at h
    · next g hg =>
      split at hg
      · next hn => subst hn; cases h; exact .inl ⟨off, g, rfl, hg, rfl⟩
      · cases hg
    · cases h
  | write off n v =>
    simp only [busAccess] at h
    split at h
    · next g hg =>
      split at hg
      · next hn => subst hn; exact .inr ⟨off, v, g, rfl, hg, h⟩
      · cases hg
    · cases h

/-- A host write to a mapped offset: a submitted command, a cleared flag, nothing (BUSY = 1), or a store. -/
theorem writeTarget_next {run : Instr → State → Outcome State Fault Refusal} {v : Word} {g : Target}
    (h : writeTarget run v g s = .next t) :
    (g = .reg .cmd ∧ submitWord run v s = .next t) ∨
    (g = .reg .status ∧ t = s.writeStatus v) ∨
    (g ≠ .reg .cmd ∧ g ≠ .reg .status ∧ s.status.busy = true ∧ t = s) ∨
    (g ≠ .reg .cmd ∧ g ≠ .reg .status ∧ s.status.busy = false ∧ t = storeTarget v g s) := by
  unfold writeTarget at h
  split at h
  · exact .inl ⟨rfl, h⟩
  · cases h; exact .inr (.inl ⟨rfl, rfl⟩)
  · next h1 h2 =>
    have h1' : g ≠ .reg .cmd := fun e => h1 e
    have h2' : g ≠ .reg .status := fun e => h2 e
    split at h
    · next hb => cases h; exact .inr (.inr (.inl ⟨h1', h2', hb, rfl⟩))
    · next hb => cases h; exact .inr (.inr (.inr ⟨h1', h2', by simpa using hb, rfl⟩))

/-- A CMD write: CMD_BUSY, ILLEGAL_CMD, or what the decoded command's submission answers. -/
theorem submitWord_next {run : Instr → State → Outcome State Fault Refusal} {v : Word}
    (h : submitWord run v s = .next t) :
    (s.status.busy = true ∧ t = s.raiseErr .cmdBusy) ∨
    (∃ why, s.status.busy = false ∧ decode v = .illegal why ∧ t = s.raiseErr .illegalCmd) ∨
    (∃ i, s.status.busy = false ∧ decode v = .command i ∧ run i s = .next t) := by
  unfold submitWord at h
  split at h
  · next hb => cases h; exact .inl ⟨hb, rfl⟩
  · next hb =>
    have hb' : s.status.busy = false := by simpa using hb
    split at h
    · next why hw => cases h; exact .inr (.inl ⟨why, hb', hw, rfl⟩)
    · next i hi => exact .inr (.inr ⟨i, hb', hi, h⟩)

end Sys2Proof.Machine
end

