-- ==== Sys2Proof/Laws/Modulator.lean ====
section
/-!
SUPPORT. MODULATE's step by phase, and what one accepted sample does to the position (44_modulator.md R192 to R196).
-/

namespace Sys2Proof.Machine

theorem modulateCore_idle {s : State} (h : s.mph = .idle) : modulateCore s = .next s := by
  simp only [modulateCore, h]

theorem modulateCore_opening {s : State} (h : s.mph = .opening) : modulateCore s = .next (openStep s) := by
  simp only [modulateCore, h]

theorem modulateCore_stream {s : State} (h : s.mph = .stream) : modulateCore s = .next (streamStep s) := by
  simp only [modulateCore, h]

theorem modulateCore_closing {s : State} (h : s.mph = .closing) : modulateCore s = .next (closeStep s) := by
  simp only [modulateCore, h]

/-- The last sample of the last word. -/
theorem State.sampleAccepted_last {s : State} (h1 : s.mpos.ms + 1 = s.mpos.spbL)
    (h2 : (nextPos s.mpos).mw = s.wordCountArg) :
    s.sampleAccepted = { s with sampleCount := s.sampleCount + 1#32, mpos := nextPos s.mpos, mph := .closing } := by
  unfold State.sampleAccepted; rw [if_pos ⟨h1, h2⟩]

/-- Any other sample. -/
theorem State.sampleAccepted_more {s : State}
    (h : ¬ (s.mpos.ms + 1 = s.mpos.spbL ∧ (nextPos s.mpos).mw = s.wordCountArg)) :
    s.sampleAccepted = { s with sampleCount := s.sampleCount + 1#32, mpos := nextPos s.mpos } := by
  unfold State.sampleAccepted; rw [if_neg h]

theorem nextPos_spbL (m : ModPos) : (nextPos m).spbL = m.spbL := by unfold nextPos; split <;> (try split) <;> rfl

/-- One more sample is done. -/
theorem samplesDone_nextPos (m : ModPos) (hb : m.mb ≤ 31) (_hs : m.ms < m.spbL) :
    samplesDone (nextPos m) = samplesDone m + 1 := by
  unfold nextPos samplesDone
  split
  · next h =>
    split
    · next h0 =>
      simp only [h0, Nat.sub_zero, Nat.sub_self]
      rw [show 32 * (m.mw + 1) + 0 = (32 * m.mw + 31) + 1 by omega, Nat.succ_mul]
      omega
    · next h0 =>
      simp only []
      rw [show 32 * m.mw + (31 - (m.mb - 1)) = (32 * m.mw + (31 - m.mb)) + 1 by omega, Nat.succ_mul]
      omega
  · simp only []; omega

/-- The position after a sample: past the last word, or in range again. -/
theorem nextPos_range {n : Nat} {m : ModPos} (h : m.mw < n ∧ m.mb ≤ 31 ∧ m.ms < m.spbL) :
    (m.ms + 1 = m.spbL ∧ (nextPos m).mw = n ∧ samplesDone m + 1 = 32 * n * m.spbL) ∨
    (¬ (m.ms + 1 = m.spbL ∧ (nextPos m).mw = n) ∧
      (nextPos m).mw < n ∧ (nextPos m).mb ≤ 31 ∧ (nextPos m).ms < (nextPos m).spbL) := by
  have hd := samplesDone_nextPos m h.2.1 h.2.2
  obtain ⟨h1, h2, h3⟩ := h
  unfold nextPos at *
  by_cases e : m.ms + 1 = m.spbL
  · by_cases e0 : m.mb = 0
    · simp only [e, e0, if_true] at hd ⊢
      by_cases ew : m.mw + 1 = n
      · left; refine ⟨trivial, ew, ?_⟩
        rw [← hd]; unfold samplesDone; simp [ew]
      · right; refine ⟨fun hh => ew hh.2, by simp; omega⟩
    · simp only [e, e0, if_true, if_false] at hd ⊢
      right; exact ⟨fun hh => by have := hh.2; omega, by simp; omega⟩
  · rw [if_neg e]
    right; exact ⟨fun hh => e hh.1, by simp; omega⟩

end Sys2Proof.Machine
end

