-- ==== Sys2Proof/Laws/Packer.lean ====
section
/-!
SUPPORT. The packer against a plain description: the text's bits cut into 20-bit data words, each sent as a message codeword
with SYNC after every 16th position (42_packer.md R151 to R157). `Packed` says it of every state the packer passes through.
-/

namespace Sys2Proof.Machine

/-- The message codeword of a data word (42_packer.md R155). -/
def msgWord (d : Data) : Word := encodeCw (flagMsg ||| d.setWidth 32)

/-- The words that sending `ds` from position `s` emits, and the position after them (42_packer.md R155, R156). -/
def emitAll : Nat → List Data → List Word × Nat
  | s, [] => ([], s)
  | s, d :: ds =>
    if s + 1 = 16 then (msgWord d :: syncWord :: (emitAll 0 ds).1, (emitAll 0 ds).2)
    else (msgWord d :: (emitAll (s + 1) ds).1, (emitAll (s + 1) ds).2)

/-- The bits of a data word in the order sent (30_encoding.md R97). -/
def bitsOf (d : Data) : List Bool := (List.range 20).map fun i => d.getLsbD (19 - i)

/-- One more data word: its codeword, and SYNC where the batch is full. -/
theorem emitAll_append (ds) : ∀ (s : Nat) (d : Data), emitAll s (ds ++ [d]) =
    ((emitAll s ds).1 ++ (if (emitAll s ds).2 + 1 = 16 then [msgWord d, syncWord] else [msgWord d]),
     if (emitAll s ds).2 + 1 = 16 then 0 else (emitAll s ds).2 + 1) := by
  induction ds with
  | nil => intro s d; simp only [List.nil_append, emitAll]; by_cases h : s + 1 = 16 <;> simp [h]
  | cons e ds ih =>
    intro s d
    simp only [List.cons_append, emitAll]
    split
    · rw [ih]; rfl
    · rw [ih]; rfl

/-- All that `emit_msg` does (42_packer.md R155, R156). -/
theorem Packer.emitMsg_eq (k : Packer) (d : Data) : k.emitMsg d =
    { k with out := k.out ++ (if k.pos + 1 = 16 then [msgWord d, syncWord] else [msgWord d])
             pos := if k.pos + 1 = 16 then 0 else k.pos + 1 } := by
  unfold Packer.emitMsg Packer.advance Packer.emit batch
  simp only []
  split <;> simp [msgWord]

/-- The packer `k` has taken in the bits `bs` from start position `s`. -/
structure Packed (s : Nat) (bs : List Bool) (k : Packer) : Prop where
  n_eq : k.n = bs.length % 20
  acc_bit : ∀ j, k.acc.getLsbD j = if j < k.n then (bs[bs.length - 1 - j]?).getD false else false
  emitted : ∃ ds : List Data, ds.length = bs.length / 20 ∧ ds.flatMap bitsOf = bs.take (20 * (bs.length / 20)) ∧
    k.out = (emitAll s ds).1 ∧ k.pos = (emitAll s ds).2

theorem Packed.start (s) : Packed s [] (Packer.start s) := ⟨rfl, fun j => by simp [Packer.start], [], rfl, rfl, rfl, rfl⟩

/-- The bits of the accumulator after one more (42_packer.md R153). -/
theorem getLsbD_accPush (acc : Data) (b : Bool) (j : Nat) : ((acc <<< 1) ||| (BitVec.ofBool b).setWidth 20).getLsbD j =
    (decide (j < 20) && if j = 0 then b else acc.getLsbD (j - 1)) := by
  rw [BitVec.getLsbD_or, BitVec.getLsbD_shiftLeft, BitVec.getLsbD_setWidth]
  by_cases h : j < 20
  · by_cases h0 : j = 0
    · subst h0; cases b <;> simp
    · have : (BitVec.ofBool b).getLsbD j = false := BitVec.getLsbD_of_ge _ _ (by omega)
      simp [h, h0, this]
  · simp [h]

/-- One bit more (42_packer.md R153, R154). -/
theorem Packed.pushBit {s bs k} (b : Bool) (h : Packed s bs k) : Packed s (bs ++ [b]) (k.pushBit b) := by
  obtain ⟨hn, ha, ds, hl, hd, ho, hp⟩ := h
  have hn20 : k.n < 20 := by rw [hn]; exact Nat.mod_lt _ (by omega)
  have hle : k.n ≤ bs.length := by rw [hn]; exact Nat.mod_le _ _
  set acc' : Data := (k.acc <<< 1) ||| (BitVec.ofBool b).setWidth 20 with hacc
  have hbit : ∀ j, acc'.getLsbD j = if j < k.n + 1 then ((bs ++ [b])[bs.length - j]?).getD false else false := by
    intro j
    rw [hacc, getLsbD_accPush]
    by_cases h0 : j = 0
    · subst h0; simp
    · rw [if_neg h0, ha]
      by_cases h1 : j < k.n + 1
      · rw [if_pos h1, if_pos (by omega), List.getElem?_append_left (by omega),
          show bs.length - 1 - (j - 1) = bs.length - j by omega]
        simp [show j < 20 by omega]
      · rw [if_neg h1, if_neg (by omega)]; simp
  have hpb : k.pushBit b = { k with acc := acc', n := k.n + 1 }.checkFull := rfl
  rw [hpb]
  unfold Packer.checkFull
  by_cases hf : k.n + 1 = 20
  · rw [if_pos (by exact hf), Packer.emitMsg_eq]
    have e1 : (bs.length + 1) / 20 = bs.length / 20 + 1 := by omega
    have e2 : 20 * (bs.length / 20 + 1) = bs.length + 1 := by omega
    have e3 : 20 * (bs.length / 20) + 19 = bs.length := by omega
    refine ⟨?_, ?_, ds ++ [acc'], ?_, ?_, ?_, ?_⟩
    · simp; omega
    · intro j; simp
    · simp [hl]; omega
    · have hb : bitsOf acc' = (bs ++ [b]).drop (20 * (bs.length / 20)) := by
        apply List.ext_getElem
        · simp [bitsOf]; omega
        · intro i h1 h2
          simp [bitsOf] at h1
          simp only [bitsOf, List.getElem_map, List.getElem_range, List.getElem_drop]
          rw [hbit, if_pos (by omega), show bs.length - (19 - i) = 20 * (bs.length / 20) + i by omega]
          rw [List.getElem?_eq_getElem (by simp; omega)]; rfl
      rw [List.flatMap_append, hd, List.flatMap_cons, List.flatMap_nil, List.append_nil, hb]
      simp only [List.length_append, List.length_cons, List.length_nil, Nat.zero_add, e1, e2]
      rw [show bs.length + 1 = (bs ++ [b]).length by simp, List.take_length]
      conv_rhs => rw [← List.take_append_drop (20 * (bs.length / 20)) (bs ++ [b])]
      congr 1
      rw [List.take_append_of_le_length (by omega)]
    · simp only [emitAll_append, ← hp, ho]
    · simp only [emitAll_append, ← hp]
  · rw [if_neg (by exact hf)]
    refine ⟨?_, ?_, ds, ?_, ?_, ho, hp⟩
    · simp; omega
    · intro j; simp only [hbit, List.length_append, List.length_cons, List.length_nil]
      rw [show bs.length + (0 + 1) - 1 - j = bs.length - j by omega]
    · simp; omega
    · have e1 : (bs.length + 1) / 20 = bs.length / 20 := by omega
      rw [hd]; simp only [List.length_append, List.length_cons, List.length_nil, Nat.zero_add, e1]
      rw [List.take_append_of_le_length (by omega)]

theorem Packed.pushBits {s} (cs : List Bool) : ∀ {bs k}, Packed s bs k →
    Packed s (bs ++ cs) (cs.foldl Packer.pushBit k) := by
  induction cs with
  | nil => intro bs k h; simpa using h
  | cons c cs ih =>
    intro bs k h
    have := ih (Packed.pushBit c h)
    simpa using this

/-- A text more. -/
theorem Packed.pushChars {s} (cs : List Byte) : ∀ {bs k}, Packed s bs k →
    Packed s (bs ++ cs.flatMap charBits) (cs.foldl Packer.pushChar k) := by
  induction cs with
  | nil => intro bs k h; simpa using h
  | cons c cs ih =>
    intro bs k h
    have := ih (Packed.pushBits (charBits c) h)
    simpa [Packer.pushChar] using this

/-- Seven bits a character (42_packer.md R152). -/
theorem length_flatMap_charBits (cs : List Byte) : (cs.flatMap charBits).length = 7 * cs.length := by
  induction cs with
  | nil => rfl
  | cons c cs ih => rw [List.flatMap_cons, List.length_append, ih]; simp [charBits, bitsPerChar]; omega

end Sys2Proof.Machine
end

