-- ==== Sys2Proof/Laws/PerInstr.lean ====
section
/-!
SUPPORT. Statements about every command, made per constructor.
-/

namespace Sys2Proof.Laws.CommandWord

/-- The command word has its bits 31:4 zero and its opcode in bits 3:0, the opcode is 1 to 5, and the decoder reads the word
back as the command (30_encoding.md R91, R92, R101). -/
def Statement (i : Instr) : Prop :=
  i.wellFormed = true ∧ rsvField (encode i) = 0#28 ∧ opField (encode i) = i.opcode ∧ 1 ≤ i.opcode.toNat ∧
    i.opcode.toNat ≤ 5 ∧ decode (encode i) = .command i

theorem encCw : Statement .encCw := by refine ⟨?_, ?_, ?_, ?_, ?_, ?_⟩ <;> decide +kernel

theorem encAddr : Statement .encAddr := by refine ⟨?_, ?_, ?_, ?_, ?_, ?_⟩ <;> decide +kernel

theorem packText : Statement .packText := by refine ⟨?_, ?_, ?_, ?_, ?_, ?_⟩ <;> decide +kernel

theorem assemble : Statement .assemble := by refine ⟨?_, ?_, ?_, ?_, ?_, ?_⟩ <;> decide +kernel

theorem modulate : Statement .modulate := by refine ⟨?_, ?_, ?_, ?_, ?_, ?_⟩ <;> decide +kernel

end Sys2Proof.Laws.CommandWord
end

