-- ==== Sys2Proof/Laws/Run.lean ====
section
/-!
SUPPORT. Runs of the machine: one step at a time, and that an idle block stays as it is where nothing is scheduled.
-/

namespace Sys2Proof.Machine

/-- A run of `n + 1` steps is a step and a run of `n`. -/
theorem run_succ {s t : State} (n : Nat) (h : step s = .next t) :
    Host.Core.run Sys2Proof.core (n + 1) s = Host.Core.run Sys2Proof.core n t := by
  have key : ∀ (M : Host.Core) (s t : M.State), M.step s = .next t → M.run (n + 1) s = M.run n t := by
    intro M s t h
    simp only [Host.Core.run, h]
  exact key Sys2Proof.core s t h

theorem run_zero (s : State) : Host.Core.run Sys2Proof.core 0 s = .next s := rfl

/-- Runs compose. -/
theorem run_add {s t : State} {m : Nat} (n : Nat) (h : Host.Core.run Sys2Proof.core m s = .next t) :
    Host.Core.run Sys2Proof.core (m + n) s = Host.Core.run Sys2Proof.core n t := by
  have key : ∀ (M : Host.Core) (m : Nat) (s t : M.State), M.run m s = .next t → M.run (m + n) s = M.run n t := by
    intro M m
    induction m with
    | zero =>
      intro s t h
      simp only [Host.Core.run] at h
      cases h
      rw [Nat.zero_add]
    | succ m ih =>
      intro s t h
      rw [show m + 1 + n = (m + n) + 1 by omega]
      simp only [Host.Core.run] at h ⊢
      split at h
      · exact ih _ _ h
      · cases h
      · cases h
  exact key Sys2Proof.core m s t h

/-- An idle block takes no step of its own (60_exceptions.md R232). -/
theorem step_idle {s : State} (hb : s.status.busy = false) (he : s.events = []) : step s = .next s := by
  show transition _ _ _ = _
  rw [transition_nil he]
  simp [coreTurn, hb]

theorem run_idle {s : State} (hb : s.status.busy = false) (he : s.events = []) (n : Nat) :
    Host.Core.run Sys2Proof.core n s = .next s := by
  induction n with
  | zero => rfl
  | succ n ih => rw [run_succ n (step_idle hb he), ih]

/-- Where nothing is scheduled, a step of a busy block is the running command's. -/
theorem step_running {s : State} {i : Instr} (hb : s.status.busy = true) (hc : s.curOp = some i) (he : s.events = []) :
    step s = exec i s := by
  show transition _ _ _ = _
  rw [transition_nil he, coreTurn_running hb hc]

end Sys2Proof.Machine
end

