-- ==== Sys2Proof/Laws/Step.lean ====
section
/-!
SUPPORT. Everything a step can do, said once: what a running command's step writes, what a submission writes, and the cases
of a step. Later proofs take these apart and do not unfold `step`.
-/

namespace Sys2Proof.Machine

variable {i : Instr} {s t : State}

/-- A running command's step: a compute command completes with its results, and MODULATE writes its own fields and adds at
most one sink operation. -/
theorem exec_running_cases (hb : s.status.busy = true) (hc : s.curOp = some i) (he : exec i s = .next t) :
    (i ≠ .modulate ∧ t.status.busy = false ∧ t.status.done = true ∧
      ∃ r so po mm wc w d, t = { s with
        result := r, slotOffset := so, position := po, mem := mm, wordCount := wc
        status := s.status.complete, curOp := none, work := w, draws := d } ∧
       mm.text = s.mem.text ∧
       (r ≠ s.result → i = .encCw ∨ i = .encAddr ∨ i = .assemble) ∧
       (so ≠ s.slotOffset → i = .encAddr ∨ i = .assemble) ∧
       (po ≠ s.position → i = .packText ∨ i = .assemble) ∧
       (wc ≠ s.wordCount → i = .packText ∨ i = .assemble)) ∨
    (i = .modulate ∧ ∃ st co an d mp mh sc lg, t = { s with
        status := st, curOp := co, answers := an, draws := d
        mpos := mp, mph := mh, sampleCount := sc, sinkLog := lg } ∧
      (lg = s.sinkLog ∨ ∃ o, lg = o :: s.sinkLog ∧ s.mph ≠ .idle)) := by
  have hr := State.running_iff.2 ⟨hb, hc⟩
  cases i
  case encCw =>
    have : exec .encCw s = encCwCore s := perform_running hr
    rw [this] at he; cases he
    exact .inl ⟨by decide, rfl, rfl, _, _, _, _, _, _, _, rfl, rfl,
      fun _ => .inl rfl, fun h => absurd rfl h, fun h => absurd rfl h, fun h => absurd rfl h⟩
  case encAddr =>
    have : exec .encAddr s = encAddrCore s := perform_running hr
    rw [this] at he; cases he
    exact .inl ⟨by decide, rfl, rfl, _, _, _, _, _, _, _, rfl, rfl,
      fun _ => .inr (.inl rfl), fun h => .inl rfl, fun h => absurd rfl h, fun h => absurd rfl h⟩
  case packText =>
    have : exec .packText s = packTextCore Config.params s := perform_running hr
    rw [this] at he; cases he
    exact .inl ⟨by decide, rfl, rfl, _, _, _, _, _, _, _, rfl, rfl,
      fun h => absurd rfl h, fun h => absurd rfl h, fun h => .inl rfl, fun h => .inl rfl⟩
  case assemble =>
    have : exec .assemble s = assembleCore Config.params s := perform_running hr
    rw [this] at he; cases he
    exact .inl ⟨by decide, rfl, rfl, _, _, _, _, _, _, _, rfl, rfl,
      fun _ => .inr (.inr rfl), fun h => .inr rfl, fun h => .inr rfl, fun h => .inr rfl⟩
  case modulate =>
    right
    refine ⟨rfl, ?_⟩
    have hx : exec .modulate s = modulateCore s := perform_running hr
    rw [hx] at he
    unfold modulateCore at he
    obtain ⟨as, d, hs⟩ := s.takeSettled_frame
    obtain ⟨as2, d2, hw⟩ := s.takeWriteAnswer_frame
    split at he
    · cases he; exact ⟨_, _, _, _, _, _, _, _, rfl, .inl rfl⟩
    · next hm =>
      cases he
      cases h1 : s.takeSettled.1
      · rw [openStep_fail h1, hs]; exact ⟨_, _, _, _, _, _, _, _, rfl, .inr ⟨_, rfl, by rw [hm]; simp⟩⟩
      · by_cases h2 : s.wordCountArg = 0
        · rw [openStep_empty h1 h2, hs]; exact ⟨_, _, _, _, _, _, _, _, rfl, .inr ⟨_, rfl, by rw [hm]; simp⟩⟩
        · rw [openStep_stream h1 h2, hs]; exact ⟨_, _, _, _, _, _, _, _, rfl, .inr ⟨_, rfl, by rw [hm]; simp⟩⟩
    · next hm =>
      cases he
      cases h1 : s.takeWriteAnswer.1
      · rw [streamStep_ok h1, hw]; exact ⟨_, _, _, _, _, _, _, _, rfl, .inr ⟨_, rfl, by rw [hm]; simp⟩⟩
      · rw [streamStep_fail h1, hw]; exact ⟨_, _, _, _, _, _, _, _, rfl, .inr ⟨_, rfl, by rw [hm]; simp⟩⟩
      · rw [streamStep_held h1, hw]; exact ⟨_, _, _, _, _, _, _, _, rfl, .inl rfl⟩
    · next hm =>
      cases he
      cases h1 : s.takeSettled.1
      · rw [closeStep_fail h1, hs]; exact ⟨_, _, _, _, _, _, _, _, rfl, .inr ⟨_, rfl, by rw [hm]; simp⟩⟩
      · rw [closeStep_ok h1, hs]; exact ⟨_, _, _, _, _, _, _, _, rfl, .inr ⟨_, rfl, by rw [hm]; simp⟩⟩

/-- A submission to an idle block: STATUS, CUR_OP and what MODULATE's acceptance sets. -/
theorem exec_submit_cases (hb : s.status.busy = false) (he : exec i s = .next t) :
    ∃ st co mp mh sc, t = { s with status := st, curOp := co, mpos := mp, mph := mh, sampleCount := sc } := by
  have hr : s.running i = false := by simp [State.running, hb]
  cases i <;>
    (rcases perform_next he with ⟨h1, -⟩ | ⟨-, h1, -⟩ | ⟨c, -, h1, rfl⟩ | ⟨-, h1, rfl⟩
     · rw [hr] at h1; cases h1
     · rw [hb] at h1; cases h1
     · exact ⟨_, _, _, _, _, rfl⟩
     · exact ⟨_, _, _, _, _, rfl⟩)

/-- The cases of a step. -/
theorem step_cases (h : step s = .next t) :
    (∃ es, s.events = .reset :: es ∧ t = resetBlock { s with events := es }) ∨
    (∃ i es, s.status.busy = true ∧ s.curOp = some i ∧ exec i { s with events := es } = .next t) ∨
    (∃ es, t = { s with events := es }) ∨
    (∃ es v, t = ({ s with events := es }.writeStatus v)) ∨
    (∃ es c, t = ({ s with events := es }.raiseErr c)) ∨
    (∃ es l d, t = { s with events := es, reads := l, draws := d }) ∨
    (∃ i es, s.status.busy = false ∧ exec i { s with events := es } = .next t) ∨
    (∃ es es' off v g, s.events = .access (.write off 4 v) :: es' ∧ target? Config.params off = some g ∧
      s.status.busy = false ∧ t = storeTarget v g { s with events := es }) := by
  have hcore : ∀ es, coreTurn exec { s with events := es } = .next t →
      (∃ i es, s.status.busy = true ∧ s.curOp = some i ∧ exec i { s with events := es } = .next t) ∨
      (∃ es, t = { s with events := es }) := by
    intro es h
    rcases coreTurn_next h with ⟨i, hb, hc, he⟩ | ⟨-, rfl⟩
    · exact .inl ⟨i, _, hb, hc, he⟩
    · exact .inr ⟨_, rfl⟩
  unfold step at h
  rcases he : s.events with _ | ⟨e, es⟩
  · rw [transition_nil he] at h
    rcases hcore s.events h with h | h
    · exact .inr (.inl h)
    · exact .inr (.inr (.inl h))
  · cases e with
    | core =>
      rw [transition_core he] at h
      exact (hcore es h).elim (fun h => .inr (.inl h)) (fun h => .inr (.inr (.inl h)))
    | reset => rw [transition_reset he] at h; cases h; exact .inl ⟨es, rfl, rfl⟩
    | access a =>
      rw [transition_access he] at h
      right; right
      rcases busAccess_next h with ⟨off, g, rfl, hg, rfl⟩ | ⟨off, v, g, rfl, hg, hw⟩
      · unfold readTarget
        split
        · exact .inr (.inr (.inr (.inl ⟨_, _, _, rfl⟩)))
        · exact .inr (.inr (.inr (.inl ⟨es, _, s.draws, rfl⟩)))
      · rcases writeTarget_next hw with ⟨rfl, hs⟩ | ⟨rfl, rfl⟩ | ⟨-, -, -, rfl⟩ | ⟨h1, h2, hb, rfl⟩
        · rcases submitWord_next hs with ⟨hb, rfl⟩ | ⟨why, hb, -, rfl⟩ | ⟨i, hb, -, he⟩
          · exact .inr (.inr (.inl ⟨_, _, rfl⟩))
          · exact .inr (.inr (.inl ⟨_, _, rfl⟩))
          · exact .inr (.inr (.inr (.inr (.inl ⟨i, es, hb, he⟩))))
        · exact .inr (.inl ⟨_, _, rfl⟩)
        · exact .inl ⟨_, rfl⟩
        · exact .inr (.inr (.inr (.inr (.inr ⟨es, es, off, v, g, rfl, hg, hb, rfl⟩))))

end Sys2Proof.Machine
end

