-- ==== Sys2Proof/Tests/Slice0.lean ====
section
/-!
SUPPORT. Tests, expected values from spec/95_test_vectors.md and the encodings of 30_encoding.md; and for each obligation
with hypotheses, a state and operands that meet them.
-/

namespace Sys2Proof.Tests

open Sys2Proof Sys2Proof.Machine

/-! ## Helpers -/

/-- A state of the block while command `i` runs. -/
def busyWith (i : Instr) : State :=
  { State.reset with status := { Status.reset with busy := true, lastOp := i.opcode }, curOp := some i }

/-- `s` with one host write as its next transition. -/
def withWrite (off : Nat) (v : Word) (s : State) : State := { s with events := [.access (.write off 4 v)] }

/-- `s` with one host read as its next transition. -/
def withRead (off : Nat) (s : State) : State := { s with events := [.access (.read off 4)] }

/-- A running MODULATE in phase `ph` with one sample a bit, `n` words and the sink's answers `as`. -/
def playing (ph : Phase) (n : Nat) (as : List SinkAnswer) : State :=
  { busyWith .modulate with
    mph := ph, mpos := { mw := 0, mb := 31, ms := 0, spbL := 1 }, wordCount := BitVec.ofNat 32 n, answers := as }

/-- The parameters of 95_test_vectors.md L2.5 with SAMPLE_RATE `r`. -/
def paramsAt (r : Nat) : Params :=
  { base := 0, textMax := 256, wordMax := 256, sampleRate := r, sampleBits := 8, highLevel := 1, lowLevel := 0,
    partialAlign := .msb }

/-- The next state of an outcome, and the reset state where there is none. -/
def nextOf : Host.Outcome State Fault Refusal → State
  | .next t => t
  | .fault _ | .refused _ => State.reset

/-! ## Well-formed parameter sets: one ill-formed set for each check (00_scope.md R9, R10) -/

theorem test_params_legal : (paramsAt 2400).legal = true := by decide
theorem test_text_max_zero : { paramsAt 2400 with textMax := 0 }.legal = false := by decide
theorem test_text_max_large : { paramsAt 2400 with textMax := 257, wordMax := 512 }.legal = false := by decide
theorem test_word_max_small : { paramsAt 2400 with wordMax := 143 }.legal = false := by decide
theorem test_word_max_least : { paramsAt 2400 with wordMax := 144 }.legal = true := by decide
theorem test_word_max_large : { paramsAt 2400 with wordMax := 513 }.legal = false := by decide
theorem test_sample_rate_zero : (paramsAt 0).legal = false := by decide
theorem test_sample_bits_zero : { paramsAt 2400 with sampleBits := 0, highLevel := 0 }.legal = false := by decide
theorem test_high_level_wide : { paramsAt 2400 with highLevel := 256 }.legal = false := by decide
theorem test_low_level_wide : { paramsAt 2400 with lowLevel := 256 }.legal = false := by decide
theorem test_levels_equal : { paramsAt 2400 with highLevel := 0 }.legal = false := by decide
theorem test_illegal_refused : (blockFor? (paramsAt 0)).isSome = false := by decide
theorem test_instr_wellFormed : Instr.modulate.wellFormed = true := by decide

/-! ## Decoding: words written out from 30_encoding.md R91 and R92 -/

theorem test_decode_enc_cw : decode 0b00000000000000000000000000000001#32 = .command .encCw := by decide
theorem test_decode_enc_addr : decode 0b00000000000000000000000000000010#32 = .command .encAddr := by decide
theorem test_decode_pack_text : decode 0b00000000000000000000000000000011#32 = .command .packText := by decide
theorem test_decode_assemble : decode 0b00000000000000000000000000000100#32 = .command .assemble := by decide
theorem test_decode_modulate : decode 0b00000000000000000000000000000101#32 = .command .modulate := by decide
theorem test_decode_zero : decode 0x00000000#32 = .illegal .reservedOpcode := by decide
theorem test_decode_six : decode 0x00000006#32 = .illegal .reservedOpcode := by decide
theorem test_decode_fifteen : decode 0x0000000F#32 = .illegal .reservedOpcode := by decide
theorem test_decode_rsv_low : decode 0x00000011#32 = .illegal .reservedBits := by decide
theorem test_decode_rsv_high : decode 0x80000003#32 = .illegal .reservedBits := by decide
theorem test_table_word : decodeTableWord 32 0x00000004 = some .assemble := by decide
theorem test_table_word_illegal : decodeTableWord 32 0x80000003 = none := by decide

/-! ## Results: 95_test_vectors.md L1.2, L2.1 to L2.7 -/

/-- L2.1, "SYNC's payload + 1". -/
theorem test_enc_cw : (nextOf (exec .encCw { busyWith .encCw with payload := 0x000F9A43#32 })).result = 0x7CD21B0B#32 := by
  decide +kernel

/-- L2.1, "PRE's payload bits; not PRE". -/
theorem test_enc_cw_not_preamble : encodeCw 0x00155555#32 = 0xAAAAAF1B#32 := by decide +kernel

/-- L2.2, address 15 with function 2. -/
theorem test_enc_addr :
    (nextOf (exec .encAddr { busyWith .encAddr with addr := 0x0000000F#32, func := 2#32 })).result = 0x0000359A#32 := by
  decide +kernel

/-- L2.2, the largest 21-bit address. -/
theorem test_enc_addr_slot : encodeAddress 0x001FFFFF#32 3#32 = (0x7FFFF896#32, 14#4) := by decide +kernel

/-- L2.3, "Hello" from position 1. -/
theorem test_pack_text :
    pack .msb 1 [0x48#8, 0x65#8, 0x6C#8, 0x6C#8, 0x6F#8] = ([0x89A668A5#32, 0xCDFB0189#32], 3) := by decide +kernel

/-- L2.3, a character with bit 7 set, under LSB. -/
theorem test_pack_text_lsb : pack .lsb 0 [0xC2#8] = ([0x80010B40#32], 1) := by decide +kernel

/-- L1.2: two idle words precede the address codeword and three follow it. -/
theorem test_assemble :
    (assembleWords .msb 1#32 0#32 []).drop 18 =
      [syncWord, idleWord, idleWord, 0x00000000#32, idleWord, idleWord, idleWord] := by decide +kernel

/-- L2.4, address 7 with "Hi": the packer's output ends with SYNC and one idle word follows. -/
theorem test_assemble_sync_end :
    (assembleWords .msb 7#32 0#32 [0x48#8, 0x69#8]).drop 33 = [0x00000000#32, 0x899605E0#32, syncWord, idleWord] := by
  decide +kernel

/-- L2.5: the first sample of 0x80000001 is high. -/
theorem test_modulate_first_sample :
    (nextOf (modulate (paramsAt 2400) ((playing .stream 1 [.ok]).setWord 0 0x80000001#32))).sinkLog =
      [.wrote .high true] := by decide +kernel

/-- L2.5: a bit rate above the sample rate is BAD_RATE, 0x54 in STATUS. -/
theorem test_modulate_bad_rate :
    (nextOf (modulate (paramsAt 2400) { State.reset with wordCount := 1#32, bitRate := 4800#32 })).status.word =
      0x00000054#32 := by decide +kernel

/-- L2.6: 0x00000216 with bits 1 and 2 written as 1. -/
theorem test_status_clear :
    Status.word (Status.writeOneToClear 6#32
      { busy := false, done := true, err := true, errCode := .illegalCmd, lastOp := 2#4 }) = 0x00000200#32 := by decide

/-- L2.6: bit 2 alone. -/
theorem test_status_clear_err :
    Status.word (Status.writeOneToClear 4#32
      { busy := false, done := true, err := true, errCode := .illegalCmd, lastOp := 2#4 }) = 0x00000202#32 := by decide

/-- L2.6: the BUSY check comes before decoding. -/
theorem test_busy_before_decode :
    (nextOf (step (withWrite 0x000 7#32 (busyWith .modulate)))).status.errCode = .cmdBusy := by rfl

/-- L2.6: the four bus faults. -/
theorem test_bus_unmapped : step (withRead 0x03C State.reset) = .fault (.busError 0x03C 4 .read) := by rfl
theorem test_bus_misaligned : step (withWrite 0x002 0#32 State.reset) = .fault (.busError 0x002 4 .write) := by rfl
theorem test_bus_size :
    step { State.reset with events := [.access (.read 0x008 2)] } = .fault (.busError 0x008 2 .read) := by rfl
theorem test_bus_past_word : step (withRead 0xC00 State.reset) = .fault (.busError 0xC00 4 .read) := by rfl

/-- L2.7: INFO after reset. -/
theorem test_info : (nextOf (step (withRead 0x038 State.reset))).reads = [(0x038, 0x01000100#32)] := by rfl

/-- 30_encoding.md R103: `CMD ASSEMBLE` and `CLR` as bus transactions. -/
theorem test_host_forms :
    (HostForm.cmd .assemble).accesses = [.write 0x000 4 4#32] ∧ HostForm.clr.accesses = [.write 0x004 4 6#32] := by decide

/-- The window of 20_memory.md R60 at BASE 0x1000: its first and last offset, and the address after it. -/
theorem test_window :
    windowOffset { paramsAt 1 with base := 0x1000 } 0x1000 = some 0 ∧
    windowOffset { paramsAt 1 with base := 0x1000 } 0x1FFF = some 0xFFF ∧
    windowOffset { paramsAt 1 with base := 0x1000 } 0x2000 = none := by decide

/-! ## Witnesses: for each obligation with hypotheses, a state and operands that meet them -/

theorem one_le_sampleRate : 1 ≤ Config.params.sampleRate := Nat.succ_le_succ (Nat.zero_le _)

theorem witness_DecodeEncodeAgree :
    Instr.assemble.wellFormed = true ∧ decode 0x00000004#32 = .command .assemble := by decide

theorem witness_SubmittedCommandRuns :
    (withWrite 0x000 1#32 State.reset).events = .access (.write 0x000 4 1#32) :: [] ∧
    (withWrite 0x000 1#32 State.reset).status.busy = false ∧ decode 1#32 = .command .encCw := by decide

theorem witness_AcceptedCommandRuns :
    ((busyWith .packText).status.busy = true ∧ (busyWith .packText).curOp = some .packText ∧
      (busyWith .packText).events = []) ∧
    (∃ s : State, s.status.busy = true ∧ s.curOp = some .packText ∧ s.events = .core :: []) ∧
    State.reset.status.busy = false ∧ State.reset.events = [] :=
  ⟨⟨rfl, rfl, rfl⟩, ⟨{ busyWith .packText with events := [.core] }, rfl, rfl, rfl⟩, rfl, rfl⟩

theorem witness_FirstErrorWins :
    State.reset.status.err = false ∧ (State.reset.raiseErr .badRate).status.err = true := by decide

theorem witness_StatusWriteOneToClear :
    (withWrite 0x004 6#32 State.reset).events = .access (.write 0x004 4 6#32) :: [] := by decide

theorem witness_AcceptanceChecks_refusals :
    ((withWrite 0x000 1#32 (busyWith .modulate)).status.busy = true) ∧
    decode 6#32 = .illegal .reservedOpcode ∧
    (decode 3#32 = .command .packText ∧ 256 < { State.reset with textLen := 257#32 }.textLen.toNat) ∧
    (decode 5#32 = .command .modulate ∧ 256 < { State.reset with wordCount := 257#32 }.wordCount.toNat) ∧
    ({ State.reset with wordCount := 256#32 }.wordCount.toNat ≤ 256 ∧ State.reset.bitRate.toNat = 0) := by decide

theorem witness_AcceptanceChecks_accepted :
    { State.reset with textLen := 256#32 }.textLen.toNat ≤ 256 ∧
    (∃ s : State, s.events = .access (.write 0x000 4 5#32) :: [] ∧ s.status.busy = false ∧ s.wordCount.toNat ≤ 256 ∧
      s.bitRate.toNat ≠ 0 ∧ s.bitRate.toNat ≤ Config.params.sampleRate) :=
  ⟨by decide, withWrite 0x000 5#32 { State.reset with wordCount := 256#32, bitRate := 1#32 }, rfl, rfl, by decide,
    by decide, one_le_sampleRate⟩

theorem witness_AcceptanceChecks_performed :
    ((busyWith .assemble).status.busy = true ∧ (busyWith .assemble).curOp = some .assemble ∧
      Instr.assemble ≠ .modulate) ∧
    (playing .opening 0 []).mph = .opening ∧ (playing .stream 1 []).mph = .stream ∧
    (playing .closing 0 []).mph = .closing ∧ (playing .closing 0 []).curOp = some .modulate := by decide

theorem witness_MappedOffsets : (paramsAt 2400).legal = true ∧
    (target? (paramsAt 2400) 0x038).isSome = true ∧ (target? (paramsAt 2400) 0x03C).isSome = false ∧
    (target? (paramsAt 2400) 0x7FC).isSome = true ∧ (target? (paramsAt 2400) 0xBFC).isSome = true ∧
    (target? (paramsAt 2400) 0xC00).isSome = false := by decide

theorem witness_OffsetsReachTheirTargets :
    (paramsAt 2400).legal = true ∧ 0 < (paramsAt 2400).textMax ∧ 255 < (paramsAt 2400).wordMax := by decide

theorem witness_OnlyBusErrorsStop :
    (withRead 0x03C State.reset).events = .access (.read 0x03C 4) :: [] ∧
    (withWrite 0x002 0#32 State.reset).events = .access (.write 0x002 4 0#32) :: [] ∧
    step (withRead 0x03C State.reset) = .fault (.busError 0x03C 4 .read) := ⟨rfl, rfl, rfl⟩

theorem witness_ReadValues :
    (withRead 0x7FC State.reset).events = .access (.read 0x7FC 4) :: [] ∧ (0x7FC = 0x400 + 4 * 255) ∧
    (withRead 0xBFC State.reset).status.busy = false ∧ (0xBFC = 0x800 + 4 * 255) ∧
    (withRead 0x024 (busyWith .encCw)).status.busy = true ∧ (paramsAt 2400).legal = true := by decide

theorem witness_ReadValues_registers : ∀ k, k < 15 →
    (withRead (4 * k) State.reset).events = .access (.read (4 * k) 4) :: [] := fun _ _ => rfl

theorem witness_WriteEffects :
    (withWrite 0x7FC 0xFF#32 State.reset).events = .access (.write 0x7FC 4 0xFF#32) :: [] ∧
    (withWrite 0xBFC 0xFF#32 State.reset).status.busy = false ∧
    (withWrite 0x008 0xFF#32 (busyWith .encCw)).status.busy = true := by decide

theorem witness_WriteEffects_registers : ∀ k, k < 15 →
    (withWrite (4 * k) 0#32 State.reset).events = .access (.write (4 * k) 4 0#32) :: [] := fun _ _ => rfl

theorem witness_ResetLeaves :
    ∃ t es, { busyWith .modulate with events := [Event.reset] }.events = Event.reset :: es ∧
      step { busyWith .modulate with events := [Event.reset] } = .next t := ⟨_, _, rfl, rfl⟩

theorem witness_ResetAbandons :
    { playing .stream 1 [.ok] with events := [Event.reset] }.events = Event.reset :: [] := by decide

theorem witness_EncCwCommand :
    (withWrite 0x000 1#32 State.reset).events = .access (.write 0x000 4 0x00000001#32) :: [] ∧
    (withWrite 0x000 1#32 State.reset).status.busy = false ∧
    (withWrite 0x000 1#32 (busyWith .encAddr)).status.busy = true ∧
    (busyWith .encCw).status.busy = true ∧ (busyWith .encCw).curOp = some .encCw := by decide

theorem witness_AddressCodewordFields :
    (0#32).extractLsb' 3 18 = (7#32).extractLsb' 3 18 ∧ (0#32 : Word) ≠ 7#32 := by decide

theorem witness_EncAddrCommand :
    (withWrite 0x000 2#32 State.reset).events = .access (.write 0x000 4 0x00000002#32) :: [] ∧
    (withWrite 0x000 2#32 State.reset).status.busy = false ∧
    (withWrite 0x000 2#32 (busyWith .encAddr)).status.busy = true ∧
    (busyWith .encAddr).curOp = some .encAddr := by decide

theorem witness_PackCounts :
    15 < 16 ∧ (List.replicate 256 (0x41#8 : Byte)).length ≤ 256 ∧ syncWord ∈ (pack .msb 15 [0x41#8]).1 ∧
    (∃ w ∈ (pack .msb 15 [0x41#8]).1, w ≠ syncWord) :=
  ⟨by decide, by decide +kernel, by decide +kernel, 0xC100057F#32, by decide +kernel, by decide⟩

theorem witness_PackKeepsEveryBit : (0 : Nat) < 16 := by decide

theorem witness_PackSyncPlacement :
    15 < 16 ∧ 1 < (pack .msb 15 [0x41#8]).1.length ∧ (pack .msb 15 [0x41#8]).1[1]? = some syncWord ∧
    (pack .msb 15 [0x41#8]).1[0]? ≠ some syncWord := by decide +kernel

theorem witness_PackTextCommand :
    (withWrite 0x000 3#32 State.reset).events = .access (.write 0x000 4 0x00000003#32) :: [] ∧
    { State.reset with textLen := 256#32 }.textLen.toNat ≤ 256 ∧
    256 < { State.reset with textLen := 257#32 }.textLen.toNat ∧
    (busyWith .packText).status.busy = true ∧ (busyWith .packText).curOp = some .packText ∧
    7 * (List.replicate 20 (0x41#8 : Byte)).length % 20 = 0 := by decide

theorem witness_AssembleShape :
    14 = (encodeAddress 7#32 0#32).2.toNat ∧ 1 = messageWords [0x48#8, 0x69#8].length ∧
    18 = 2 + 14 + 1 + (14 + 1 + 1) / 16 ∧ 17 < 18 ∧ 19 ≤ 32 ∧ 32 < 19 + 14 := by decide +kernel

theorem witness_OutputFitsWordBuffer :
    { paramsAt 2400 with wordMax := 144 }.legal = true ∧
    (List.replicate 256 (0x41#8 : Byte)).length ≤ { paramsAt 2400 with wordMax := 144 }.textMax ∧ 15 < 16 := by
  decide +kernel

theorem witness_AssembleCommand :
    (withWrite 0x000 4#32 State.reset).events = .access (.write 0x000 4 0x00000004#32) :: [] ∧
    { State.reset with textLen := 256#32 }.textLen.toNat ≤ 256 ∧
    256 < { State.reset with textLen := 257#32 }.textLen.toNat ∧
    (busyWith .assemble).status.busy = true ∧ (busyWith .assemble).curOp = some .assemble ∧
    (List.replicate 38 (0x41#8 : Byte)).length = 38 ∧ (List.replicate 55 (0x41#8 : Byte)).length = 55 ∧
    18 = 2 + (encodeAddress 7#32 0#32).2.toNat + (assemblePack .msb 7#32 0#32 [0x48#8, 0x69#8]).1.length ∧
    (2 + (encodeAddress 0#32 0#32).2.toNat + (assemblePack .msb 0#32 0#32 (List.replicate 38 0x41#8)).1.length) % 16 ≤ 1 ∧
    [0x48#8, 0x69#8].length = 2 := by decide +kernel

theorem witness_ModulateOpenStep :
    ((playing .opening 0 [.ok]).status.busy = true ∧ (playing .opening 0 [.ok]).curOp = some .modulate ∧
      (playing .opening 0 [.ok]).mph = .opening ∧ (playing .opening 0 [.ok]).takeSettled.1 = true ∧
      (playing .opening 0 [.ok]).wordCount = 0#32) ∧
    ((playing .opening 1 [.ok]).takeSettled.1 = true ∧ (playing .opening 1 [.ok]).wordCount ≠ 0#32) ∧
    (playing .opening 1 [.fail]).takeSettled.1 = false ∧
    (SinkAnswer.ok ≠ .held ∧ (playing .opening 1 [.ok]).answers = .ok :: []) := by decide

theorem witness_ModulateStreamStep :
    ((playing .stream 1 [.held]).status.busy = true ∧ (playing .stream 1 [.held]).curOp = some .modulate ∧
      (playing .stream 1 [.held]).mph = .stream) ∧
    (playing .stream 1 [.held]).takeWriteAnswer.1 = .held ∧ (playing .stream 1 [.fail]).takeWriteAnswer.1 = .fail ∧
    (playing .stream 1 [.ok]).takeWriteAnswer.1 = .ok ∧ (playing .stream 1 [.ok]).answers = .ok :: [] := by decide

theorem witness_ModulateCloseStep :
    ((playing .closing 1 [.ok]).status.busy = true ∧ (playing .closing 1 [.ok]).curOp = some .modulate ∧
      (playing .closing 1 [.ok]).mph = .closing ∧ (playing .closing 1 [.ok]).takeSettled.1 = true) ∧
    (playing .closing 1 [.fail]).takeSettled.1 = false := by decide

theorem witness_SinkFailureAbandons :
    ((playing .stream 1 [.fail]).mph ≠ .idle ∧ (playing .stream 1 [.fail]).takeWriteAnswer.1 = .fail) ∧
    ((playing .opening 1 [.fail]).mph ≠ .idle ∧ (playing .opening 1 [.fail]).mph ≠ .stream ∧
      (playing .opening 1 [.fail]).takeSettled.1 = false) ∧
    ((playing .closing 1 [.fail]).mph ≠ .stream ∧ (playing .closing 1 [.fail]).takeSettled.1 = false) := by decide

theorem witness_HeldWriteStalls :
    ((playing .stream 1 [.held]).mph = .stream ∧ (playing .stream 1 [.held]).answers = .held :: []) ∧
    (playing .opening 1 [.held]).answers = .held :: [] ∧ (playing .opening 1 [.held]).mph = .opening ∧
    (playing .closing 1 []).mph = .closing := by decide

theorem witness_ModulatePlaysWholeBuffer :
    ∃ s : State, s.status.busy = true ∧ s.curOp = some .modulate ∧ s.mph = .opening ∧ s.events = [] ∧
      1 ≤ s.mpos.spbL ∧ s.sampleCount = 0#32 ∧ s.wordCount ≠ 0#32 ∧
      s.answers = List.replicate (32 * s.wordCount.toNat * s.mpos.spbL + 2) .ok ++ [] :=
  ⟨playing .opening 1 (List.replicate 34 .ok), rfl, rfl, rfl, rfl, Nat.le_refl _, rfl, by decide, rfl⟩

theorem witness_WorkingStateNeverRead :
    ((playing .stream 1 [.ok]).mph = .stream ∧ (playing .stream 1 [.ok]).mpos = (playing .stream 1 [.ok]).mpos) ∧
    ((playing .opening 1 [.ok]).mph = .opening ∧
      { (playing .opening 1 [.ok]).mpos with mw := 5, mb := 3 }.spbL = (playing .opening 1 [.ok]).mpos.spbL) ∧
    step (withRead 0x03C State.reset) = .fault (.busError 0x03C 4 .read) ∧
    step (withRead 0x004 State.reset) = .next { State.reset with reads := [(0x004, 0#32)] } :=
  ⟨⟨rfl, rfl⟩, ⟨rfl, rfl⟩, rfl, rfl⟩

theorem witness_StepKeepsInv :
    Config.params.legal = true ∧ Inv Config.params State.reset ∧ step State.reset = .next State.reset := by
  refine ⟨Config.params_legal, ⟨⟨by decide, by decide, by decide, fun i h => (by cases h), .inl rfl⟩, ⟨?_, ?_, ?_⟩,
    ⟨by decide, ?_, ?_, ?_, ?_⟩, rfl, by decide⟩, rfl⟩
  · rintro (h | h) <;> cases h
  all_goals (intro h; cases h)

theorem witness_OperandsFrozenWhileBusy :
    ∃ t, (withWrite 0x008 1#32 (busyWith .encCw)).status.busy = true ∧
      (∀ es, (withWrite 0x008 1#32 (busyWith .encCw)).events ≠ .reset :: es) ∧
      step (withWrite 0x008 1#32 (busyWith .encCw)) = .next t ∧ t.status.busy = true :=
  ⟨_, rfl, fun es h => (by cases h), rfl, rfl⟩

theorem witness_ResultsWrittenOnlyAtCompletion :
    (∃ t, (∀ es, { busyWith .encAddr with addr := 9#32 }.events ≠ .reset :: es) ∧
      step { busyWith .encAddr with addr := 9#32 } = .next t ∧ t.slotOffset ≠ 0#4 ∧ t.result ≠ 0#32) ∧
    (∃ t, step (withWrite 0x02C 5#32 State.reset) = .next t ∧ t.wordCount ≠ 0#32) ∧
    (∃ t, step { busyWith .packText with startPos := 7#32 } = .next t ∧ t.position ≠ 0#4) :=
  ⟨⟨_, fun es h => (by cases h), rfl, by decide +kernel, by decide +kernel⟩, ⟨_, rfl, by decide⟩,
    ⟨_, rfl, by decide +kernel⟩⟩

theorem witness_SinkStreamOnlyGrows :
    ∃ t, step (playing .closing 0 [.ok]) = .next t ∧ t.sinkLog = [.closed true] := ⟨_, rfl, rfl⟩

theorem witness_ComputeCommandsComplete :
    State.reset.status.busy = false ∧ State.reset.events = [] ∧ Instr.encAddr ≠ .modulate ∧
    { State.reset with textLen := 256#32 }.textLen.toNat ≤ 256 := by decide

/-- A legal parameter set with every default changed: 100 characters, the least WORD_MAX for them, PARTIAL_ALIGN = LSB. -/
def smallLsb : Params := { paramsAt 2400 with textMax := 100, wordMax := wmin 100, partialAlign := .lsb }

theorem witness_AcceptanceAtEveryParameterSet_refusals :
    smallLsb.legal = true ∧
    (withWrite 0x000 3#32 (busyWith .modulate)).events = .access (.write 0x000 4 3#32) :: [] ∧
    (withWrite 0x000 3#32 (busyWith .modulate)).status.busy = true ∧
    decode 0x10#32 = .illegal .reservedBits ∧
    smallLsb.textMax < { State.reset with textLen := 101#32 }.textLen.toNat ∧
    smallLsb.wordMax < { State.reset with wordCount := 87#32 }.wordCount.toNat ∧
    ({ State.reset with wordCount := 86#32 }.wordCount.toNat ≤ smallLsb.wordMax ∧
      smallLsb.sampleRate < { State.reset with bitRate := 2401#32 }.bitRate.toNat) := by decide

theorem witness_AcceptanceAtEveryParameterSet_accepted :
    { State.reset with textLen := 100#32 }.textLen.toNat ≤ smallLsb.textMax ∧
    ({ State.reset with wordCount := 86#32 }.wordCount.toNat ≤ smallLsb.wordMax ∧
      { State.reset with bitRate := 2400#32 }.bitRate.toNat ≠ 0 ∧
      { State.reset with bitRate := 2400#32 }.bitRate.toNat ≤ smallLsb.sampleRate) ∧
    ((busyWith .encCw).status.busy = true ∧ (busyWith .encCw).curOp = some .encCw ∧ Instr.encCw ≠ .modulate) ∧
    ((playing .opening 0 []).curOp = some .modulate ∧ (playing .opening 0 []).mph = .opening ∧
      (playing .stream 1 []).mph = .stream ∧ (playing .closing 0 []).mph = .closing) := by decide

theorem witness_PackTextAtEveryParameterSet :
    smallLsb.legal = true ∧ (busyWith .packText).status.busy = true ∧
    (busyWith .packText).curOp = some .packText := by decide

theorem witness_AssembleAtEveryParameterSet :
    smallLsb.legal = true ∧ (busyWith .assemble).status.busy = true ∧ (busyWith .assemble).curOp = some .assemble ∧
    { busyWith .assemble with textLen := 100#32 }.textLen.toNat ≤ smallLsb.textMax := by decide

end Sys2Proof.Tests
end

/-!
PROOFS of the scope family: a machine exists exactly for the legal parameter sets (00_scope.md R9, R10), `step` is the one at
`Config.params`, and under R10's constraint no command writes past the WORD buffer.
-/

namespace Sys2Proof.Machine

/-! ## The machine of a parameter set -/

/-- A parameter set is refused exactly when it is illegal (00_scope.md R10). -/
theorem blockFor?_isSome (p : Params) : (blockFor? p).isSome = true ↔ p.legal = true := by
  unfold blockFor?
  split
  · next h => simp [h]
  · next h => simp [h]

/-- Settles O47: `blockFor?` answers for the legal sets, and those are the ranges of R9 with the constraint of R10. -/
theorem illegalParametersRefused : Obligations.IllegalParametersRefused :=
  ⟨fun p => (blockFor?_isSome p).trans p.legal_iff, (blockFor?_isSome _).2 Config.params_legal, by decide⟩

/-- Settles O48: `exec` and `step` are the meanings and the transition at `Config.params`. -/
theorem stepIsTheMachineAtParams : Obligations.StepIsTheMachineAtParams :=
  ⟨Config.params_legal, rfl, rfl, rfl, exec_eq_execWith, step_eq_transition⟩

/-! ## How many words the packer sends (42_packer.md R161) -/

/-- Sending one data word per codeword from position `s`, with SYNC at every batch boundary passed. -/
theorem length_emitAll (ds : List Data) : ∀ {s : Nat}, s < 16 →
    (emitAll s ds).1.length = ds.length + (s + ds.length) / 16 := by
  induction ds with
  | nil => intro s hs; simp [emitAll]; omega
  | cons d ds ih =>
    intro s hs
    unfold emitAll
    split
    · have := ih (s := 0) (by omega)
      simp only [List.length_cons]
      omega
    · have := ih (s := s + 1) (by omega)
      simp only [List.length_cons]
      omega

/-- One message codeword more (42_packer.md R155). -/
theorem Packer.emitMsg_emitAll {k : Packer} {s : Nat} {ds : List Data} (ho : k.out = (emitAll s ds).1)
    (hp : k.pos = (emitAll s ds).2) (d : Data) :
    (k.emitMsg d).out = (emitAll s (ds ++ [d])).1 ∧ (k.emitMsg d).pos = (emitAll s (ds ++ [d])).2 := by
  simp only [Packer.emitMsg_eq, emitAll_append, ho, hp, and_self]

/-- The packer sends one data word per 20 bits of the text, the last of them partial (42_packer.md R154, R157). -/
theorem pack_eq_emitAll (al : PartialAlign) (s : Nat) (chars : List Byte) :
    ∃ ds : List Data, ds.length = messageWords chars.length ∧ pack al s chars = emitAll s ds := by
  have hk := Packed.pushChars chars (Packed.start s)
  unfold pack messageWords
  generalize chars.foldl Packer.pushChar (Packer.start s) = k at hk ⊢
  obtain ⟨hn, -, ds, hl, -, ho, hp⟩ := hk
  rw [List.nil_append, length_flatMap_charBits] at hn hl
  unfold Packer.finish
  split
  · obtain ⟨ho', hp'⟩ := Packer.emitMsg_emitAll ho hp (align al k.acc k.n)
    exact ⟨ds ++ [align al k.acc k.n], by rw [List.length_append, List.length_singleton]; omega, Prod.ext ho' hp'⟩
  · exact ⟨ds, by omega, Prod.ext ho hp⟩

theorem length_pack (al : PartialAlign) {s : Nat} (chars : List Byte) (hs : s < 16) :
    (pack al s chars).1.length = messageWords chars.length + (s + messageWords chars.length) / 16 := by
  obtain ⟨ds, hl, he⟩ := pack_eq_emitAll al s chars
  rw [he, length_emitAll ds hs, hl]

/-! ## How many words a transmission has (43_assembler.md R178) -/

/-- A slot offset is 0 to 14 (41_address.md R141). -/
theorem encodeAddress_offset_le (a f : Word) : (encodeAddress a f).2.toNat ≤ 14 := by
  have hslot : ∀ b : BitVec 3, (b.setWidth 4 * 2#4).toNat ≤ 14 := by decide
  exact hslot (slotOf a)

theorem length_assembleHead (a f : Word) : (assembleHead a f).length = 20 + (encodeAddress a f).2.toNat := by
  simp only [assembleHead, List.length_append, List.length_replicate, List.length_singleton, preambleLen]
  omega

theorem length_assembleBody (al : PartialAlign) (a f : Word) (chars : List Byte) :
    (assembleBody al a f chars).length = 20 + (encodeAddress a f).2.toNat + messageWords chars.length
      + ((encodeAddress a f).2.toNat + 1 + messageWords chars.length) / 16 := by
  have hso := encodeAddress_offset_le a f
  rw [assembleBody, List.length_append, length_assembleHead, assemblePack, length_pack al chars (by omega)]
  omega

theorem length_assembleWords (al : PartialAlign) (a f : Word) (chars : List Byte) :
    (assembleWords al a f chars).length =
      (assembleBody al a f chars).length + trailingPad (assembleBody al a f chars).length := by
  rw [assembleWords, List.length_append, List.length_replicate]

/-- The bound of 43_assembler.md R178: 14 slot idles and 14 trailing ones at most. -/
theorem length_assembleWords_le_wmin (al : PartialAlign) (a f : Word) (chars : List Byte) :
    (assembleWords al a f chars).length ≤ wmin chars.length := by
  have hso := encodeAddress_offset_le a f
  have hpad : trailingPad (assembleBody al a f chars).length ≤ 14 := by unfold trailingPad; omega
  rw [length_assembleWords]
  rw [length_assembleBody] at hpad ⊢
  unfold wmin messageWords at *
  omega

/-- A text packed from any position is shorter than a transmission of it may be (42_packer.md R161). -/
theorem length_pack_le_wmin (al : PartialAlign) {s : Nat} (chars : List Byte) (hs : s < 16) :
    (pack al s chars).1.length ≤ wmin chars.length := by
  rw [length_pack al chars hs]
  unfold wmin messageWords
  omega

theorem wmin_mono {l t : Nat} (h : l ≤ t) : wmin l ≤ wmin t := by
  unfold wmin
  gcongr

/-- Settles O32: both outputs are at most `WMIN` of the text's length, which grows with it, and WORD_MAX is at least
`WMIN(TEXT_MAX)` in a legal set. -/
theorem outputFitsWordBuffer : Obligations.OutputFitsWordBuffer := by
  intro p al a f n chars hlegal hchars hn
  obtain ⟨-, -, hword, -⟩ := p.legal_iff.1 hlegal
  have hfit : wmin chars.length ≤ p.wordMax := (wmin_mono hchars).trans hword
  exact ⟨(length_assembleWords_le_wmin al a f chars).trans hfit, (length_pack_le_wmin al chars hn).trans hfit⟩

end Sys2Proof.Machine

/-!
PROOFS of the state family: a command as its check, its start and its core step; that no step reads the working state
before it is set (10_state.md R31 to R34); that every step keeps `Inv`; what a step leaves unchanged (R23, R30); and a CMD
write, the bits of STATUS and the offsets of the map (R22, R25, R26).
-/

namespace Sys2Proof.Machine

open Host (Outcome)

/-! ## A command as its check, its start and its core step -/

/-- The operand check of command `i` (60_exceptions.md R216 to R218). -/
def commandCheck (p : Params) : Instr → State → Option ErrCode
  | .encCw | .encAddr => noCheck
  | .packText | .assemble => textLenCheck p
  | .modulate => modulateCheck p

/-- What command `i` adds to acceptance (60_exceptions.md R213). -/
def commandStart (p : Params) : Instr → State → State
  | .encCw | .encAddr | .packText | .assemble => id
  | .modulate => modulateStart p

/-- The core step of command `i`. -/
def commandCore (p : Params) : Instr → State → Outcome State Fault Refusal
  | .encCw => encCwCore
  | .encAddr => encAddrCore
  | .packText => packTextCore p
  | .assemble => assembleCore p
  | .modulate => modulateCore

theorem execWith_eq_perform (p : Params) (i : Instr) (s : State) :
    execWith p i s = perform i (commandCheck p i) (commandStart p i) (commandCore p i) s := by
  cases i <;> rfl

/-! ## Two states that differ only in the working state -/

/-- `s` with other working registers and another position. -/
def State.withWorking (w : Work) (m : ModPos) (s : State) : State := { s with work := w, mpos := m }

/-- `s` and a state that differs from it only in the compute commands' working registers and in the position fields that
the phase does not use (10_state.md R31 to R34). -/
inductive SameButWorking (s : State) : State → Prop
  | intro (w : Work) (m : ModPos) (stream : s.mph = .stream → m = s.mpos)
      (opening : s.mph = .opening → m.spbL = s.mpos.spbL) : SameButWorking s (s.withWorking w m)

/-- The same fault, the same refusal, or next states that differ only in the working state. -/
inductive SameOutcome : Outcome State Fault Refusal → Outcome State Fault Refusal → Prop
  | next {t t' : State} (h : SameButWorking t t') : SameOutcome (.next t) (.next t')
  | fault (f : Fault) : SameOutcome (.fault f) (.fault f)
  | refused (r : Refusal) : SameOutcome (.refused r) (.refused r)

variable {p : Params} {s s' : State}

theorem SameButWorking.mph (h : SameButWorking s s') : s'.mph = s.mph := by
  obtain ⟨w, m, -, -⟩ := h
  rfl

theorem SameButWorking.busy (h : SameButWorking s s') : s'.status.busy = s.status.busy := by
  obtain ⟨w, m, -, -⟩ := h
  rfl

theorem SameButWorking.curOp (h : SameButWorking s s') : s'.curOp = s.curOp := by
  obtain ⟨w, m, -, -⟩ := h
  rfl

theorem SameButWorking.running (h : SameButWorking s s') (i : Instr) : s'.running i = s.running i := by
  simp only [State.running, h.busy, h.curOp]

theorem SameButWorking.wordCountArg (h : SameButWorking s s') : s'.wordCountArg = s.wordCountArg := by
  obtain ⟨w, m, -, -⟩ := h
  rfl

theorem SameButWorking.events (h : SameButWorking s s') : s'.events = s.events := by
  obtain ⟨w, m, -, -⟩ := h
  rfl

/-- An operation that neither reads nor writes the working state and keeps the phase. -/
theorem SameButWorking.map (f : State → State) (h : SameButWorking s s')
    (hf : ∀ w m, f (s.withWorking w m) = (f s).withWorking w m)
    (hmph : (f s).mph = s.mph) (hmpos : (f s).mpos = s.mpos) : SameButWorking (f s) (f s') := by
  obtain ⟨w, m, hs, ho⟩ := h
  rw [hf]
  exact .intro w m (by rwa [hmph, hmpos]) (by rwa [hmph, hmpos])

/-- In IDLE and CLOSE no position field is used. -/
theorem SameButWorking.of_unused (w : Work) (m : ModPos) (hs : s.mph ≠ .stream) (ho : s.mph ≠ .opening) :
    SameButWorking s (s.withWorking w m) :=
  .intro w m (fun e => absurd e hs) (fun e => absurd e ho)

theorem SameButWorking.finishCompute (h : SameButWorking s s') : SameButWorking s.finishCompute s'.finishCompute := by
  obtain ⟨w, m, hs, ho⟩ := h
  exact .intro _ m hs ho

theorem SameButWorking.dropModulator (h : SameButWorking s s') : SameButWorking s.dropModulator s'.dropModulator := by
  obtain ⟨w, m, -, -⟩ := h
  exact .of_unused w _ (by simp) (by simp)

theorem SameButWorking.sinkFail (h : SameButWorking s s') : SameButWorking s.sinkFail s'.sinkFail := by
  obtain ⟨w, m, -, -⟩ := h
  exact .of_unused w _ (by simp) (by simp)

/-! ## No command reads the working state before it is set -/

theorem State.takeSettled_withWorking (s : State) (w : Work) (m : ModPos) :
    (s.withWorking w m).takeSettled = (s.takeSettled.1, s.takeSettled.2.withWorking w m) := by
  unfold State.takeSettled State.withWorking
  dsimp only
  split <;> rfl

theorem State.takeWriteAnswer_withWorking (s : State) (w : Work) (m : ModPos) :
    (s.withWorking w m).takeWriteAnswer = (s.takeWriteAnswer.1, s.takeWriteAnswer.2.withWorking w m) := by
  unfold State.takeWriteAnswer State.withWorking
  dsimp only
  split <;> rfl

/-- Taking an answer for an open or a close. -/
theorem SameButWorking.takeSettled (h : SameButWorking s s') :
    s'.takeSettled.1 = s.takeSettled.1 ∧ SameButWorking s.takeSettled.2 s'.takeSettled.2 := by
  obtain ⟨as, d, hframe⟩ := s.takeSettled_frame
  refine ⟨?_, h.map (·.takeSettled.2) (fun w m => ?_) (by rw [hframe]) (by rw [hframe])⟩
  · obtain ⟨w, m, -, -⟩ := h
    rw [s.takeSettled_withWorking]
  · rw [s.takeSettled_withWorking]

/-- Taking an answer for a write. -/
theorem SameButWorking.takeWriteAnswer (h : SameButWorking s s') :
    s'.takeWriteAnswer.1 = s.takeWriteAnswer.1 ∧ SameButWorking s.takeWriteAnswer.2 s'.takeWriteAnswer.2 := by
  obtain ⟨as, d, hframe⟩ := s.takeWriteAnswer_frame
  refine ⟨?_, h.map (·.takeWriteAnswer.2) (fun w m => ?_) (by rw [hframe]) (by rw [hframe])⟩
  · obtain ⟨w, m, -, -⟩ := h
    rw [s.takeWriteAnswer_withWorking]
  · rw [s.takeWriteAnswer_withWorking]

theorem SameButWorking.logSink (h : SameButWorking s s') (o : SinkOp) : SameButWorking (s.logSink o) (s'.logSink o) :=
  h.map (·.logSink o) (fun _ _ => rfl) rfl rfl

/-- OPEN uses SPB_L alone, and sets the rest of the position (44_modulator.md R192). -/
theorem SameButWorking.openStep_same (h : SameButWorking s s') (hm : s.mph = .opening) :
    SameButWorking (openStep s) (openStep s') := by
  obtain ⟨hanswer, htaken⟩ := h.takeSettled
  have hmph : s.takeSettled.2.mph = .opening := by
    obtain ⟨as, d, hframe⟩ := s.takeSettled_frame
    rw [hframe, hm]
  cases ha : s.takeSettled.1
  · rw [openStep_fail ha, openStep_fail (hanswer.trans ha)]
    exact (htaken.logSink _).sinkFail
  · by_cases hn : s.wordCountArg = 0
    · rw [openStep_empty ha hn, openStep_empty (hanswer.trans ha) (h.wordCountArg.trans hn)]
      generalize s.takeSettled.2 = u, s'.takeSettled.2 = u' at htaken
      obtain ⟨w, m, -, -⟩ := htaken
      exact .of_unused w m (by simp) (by simp)
    · rw [openStep_stream ha hn, openStep_stream (hanswer.trans ha) (h.wordCountArg ▸ hn)]
      generalize s.takeSettled.2 = u, s'.takeSettled.2 = u' at htaken hmph
      obtain ⟨w, m, -, hspb⟩ := htaken
      have hpos : { m with mw := 0, mb := 31, ms := 0 } = { u.mpos with mw := 0, mb := 31, ms := 0 } := by
        rw [hspb hmph]
      exact .intro w _ (fun _ => hpos) (fun _ => hspb hmph)

/-- In STREAM the whole position is used, and only the working registers may differ (44_modulator.md R193). -/
theorem SameButWorking.streamStep_same (h : SameButWorking s s') (hm : s.mph = .stream) :
    SameButWorking (streamStep s) (streamStep s') := by
  obtain ⟨hanswer, htaken⟩ := h.takeWriteAnswer
  have hmph : s.takeWriteAnswer.2.mph = .stream := by
    obtain ⟨as, d, hframe⟩ := s.takeWriteAnswer_frame
    rw [hframe, hm]
  have hlevel : s'.currentLevel = s.currentLevel := by
    obtain ⟨w, m, hpos, -⟩ := h
    rw [hpos hm]
    rfl
  cases ha : s.takeWriteAnswer.1
  · rw [streamStep_ok ha, streamStep_ok (hanswer.trans ha), hlevel]
    generalize s.takeWriteAnswer.2 = u, s'.takeWriteAnswer.2 = u' at htaken hmph
    obtain ⟨w, m, hpos, -⟩ := htaken
    rw [hpos hmph]
    exact .intro w _ (fun _ => rfl) (fun _ => rfl)
  · rw [streamStep_fail ha, streamStep_fail (hanswer.trans ha), hlevel]
    exact (htaken.logSink _).sinkFail
  · rw [streamStep_held ha, streamStep_held (hanswer.trans ha)]
    exact htaken

/-- CLOSE uses no position field (44_modulator.md R194). -/
theorem SameButWorking.closeStep_same (h : SameButWorking s s') : SameButWorking (closeStep s) (closeStep s') := by
  obtain ⟨hanswer, htaken⟩ := h.takeSettled
  cases ha : s.takeSettled.1
  · rw [closeStep_fail ha, closeStep_fail (hanswer.trans ha)]
    exact (htaken.logSink _).sinkFail
  · rw [closeStep_ok ha, closeStep_ok (hanswer.trans ha)]
    exact ((htaken.logSink _).map State.complete (fun _ _ => rfl) rfl rfl).dropModulator

/-- MODULATE's step reads of the position what its phase uses. -/
theorem SameButWorking.modulateCore_same (h : SameButWorking s s') : SameOutcome (modulateCore s) (modulateCore s') := by
  cases hm : s.mph
  · rw [modulateCore_idle hm, modulateCore_idle (h.mph.trans hm)]
    exact .next h
  · rw [modulateCore_opening hm, modulateCore_opening (h.mph.trans hm)]
    exact .next (h.openStep_same hm)
  · rw [modulateCore_stream hm, modulateCore_stream (h.mph.trans hm)]
    exact .next (h.streamStep_same hm)
  · rw [modulateCore_closing hm, modulateCore_closing (h.mph.trans hm)]
    exact .next h.closeStep_same

/-- A compute command's core step evaluates its own working values and drops them (10_state.md R31 to R33). -/
theorem SameButWorking.commandCore_same (h : SameButWorking s s') (i : Instr) :
    SameOutcome (commandCore p i s) (commandCore p i s') := by
  cases i with
  | encCw =>
    exact .next (h.map (fun s => { s with result := encodeCw s.payload }) (fun _ _ => rfl) rfl rfl).finishCompute
  | encAddr =>
    exact .next (h.map (fun s => { s with
      result := (encodeAddress s.addr s.func).1, slotOffset := (encodeAddress s.addr s.func).2 })
      (fun _ _ => rfl) rfl rfl).finishCompute
  | packText =>
    exact .next (h.map (fun s => { s.putWords (pack p.partialAlign s.startArg s.chars).1 with
      position := BitVec.ofNat 4 (pack p.partialAlign s.startArg s.chars).2 }) (fun _ _ => rfl) rfl rfl).finishCompute
  | assemble =>
    exact .next (h.map (fun s => { s.putWords (assembleWords p.partialAlign s.addr s.func s.chars) with
      result := (encodeAddress s.addr s.func).1
      slotOffset := (encodeAddress s.addr s.func).2
      position := BitVec.ofNat 4 (assemblePack p.partialAlign s.addr s.func s.chars).2 })
      (fun _ _ => rfl) rfl rfl).finishCompute
  | modulate => exact h.modulateCore_same

theorem SameButWorking.commandCheck_eq (h : SameButWorking s s') (i : Instr) :
    commandCheck p i s' = commandCheck p i s := by
  obtain ⟨w, m, -, -⟩ := h
  cases i <;> rfl

/-- MODULATE's acceptance sets SPB_L, which is all that OPEN uses (44_modulator.md R191). -/
theorem SameButWorking.commandStart_same (h : SameButWorking s s') (i : Instr) :
    SameButWorking (commandStart p i s) (commandStart p i s') := by
  cases i with
  | modulate =>
    obtain ⟨w, m, -, -⟩ := h
    exact .intro w _ nofun (fun _ => rfl)
  | encCw | encAddr | packText | assemble => exact h

theorem SameButWorking.raiseErr (h : SameButWorking s s') (c : ErrCode) :
    SameButWorking (s.raiseErr c) (s'.raiseErr c) :=
  h.map (·.raiseErr c) (fun _ _ => rfl) rfl rfl

theorem SameButWorking.execWith_same (h : SameButWorking s s') (i : Instr) :
    SameOutcome (execWith p i s) (execWith p i s') := by
  rw [execWith_eq_perform, execWith_eq_perform]
  cases hr : s.running i
  · rw [perform_not_running hr, perform_not_running ((h.running i).trans hr)]
    rcases submit_cases i (commandCheck p i) (commandStart p i) s
      with ⟨hb, hs⟩ | ⟨c, hb, hc, hs⟩ | ⟨hb, hc, hs⟩
    · rw [hs, submit_busy (h.busy.trans hb)]
      exact .next (h.raiseErr _)
    · rw [hs, submit_refused (h.busy.trans hb) ((h.commandCheck_eq i).trans hc)]
      exact .next (h.raiseErr c)
    · rw [hs, submit_accepted (h.busy.trans hb) ((h.commandCheck_eq i).trans hc)]
      exact .next ((h.map (·.accept i) (fun _ _ => rfl) rfl rfl).commandStart_same i)
  · rw [perform_running hr, perform_running ((h.running i).trans hr)]
    exact h.commandCore_same i

/-! ## No transition reads the working state before it is set -/

theorem SameButWorking.coreTurn_same (h : SameButWorking s s') :
    SameOutcome (coreTurn (execWith p) s) (coreTurn (execWith p) s') := by
  unfold coreTurn
  rw [h.busy, h.curOp]
  split
  · split
    · exact h.execWith_same _
    · exact .next h
  · exact .next h

theorem SameButWorking.submitWord_same (h : SameButWorking s s') (v : Word) :
    SameOutcome (submitWord (execWith p) v s) (submitWord (execWith p) v s') := by
  unfold submitWord
  rw [h.busy]
  split
  · exact .next (h.raiseErr _)
  · split
    · exact .next (h.raiseErr _)
    · exact h.execWith_same _

theorem SameButWorking.storeTarget_same (h : SameButWorking s s') (v : Word) (g : Target) :
    SameButWorking (storeTarget v g s) (storeTarget v g s') := by
  cases g with
  | text k => exact h.map _ (fun _ _ => rfl) rfl rfl
  | word k => exact h.map _ (fun _ _ => rfl) rfl rfl
  | reg r => cases r <;> exact h.map _ (fun _ _ => rfl) rfl rfl

theorem SameButWorking.writeTarget_same (h : SameButWorking s s') (v : Word) (g : Target) :
    SameOutcome (writeTarget (execWith p) v g s) (writeTarget (execWith p) v g s') := by
  unfold writeTarget
  rw [h.busy]
  split
  · exact h.submitWord_same v
  · exact .next (h.map (·.writeStatus v) (fun _ _ => rfl) rfl rfl)
  · split
    · exact .next h
    · exact .next (h.storeTarget_same v _)

/-- No working register and no position field has an offset. -/
theorem State.held_withWorking (s : State) (w : Work) (m : ModPos) (g : Target) :
    (s.withWorking w m).held p g = s.held p g := by
  cases g with
  | text k => rfl
  | word k => rfl
  | reg r => cases r <;> rfl

theorem SameButWorking.readTarget_same (h : SameButWorking s s') (off : Nat) (g : Target) :
    SameButWorking (readTarget p off g s) (readTarget p off g s') := by
  have hheld : s'.held p g = s.held p g := by
    obtain ⟨w, m, -, -⟩ := h
    exact s.held_withWorking w m g
  unfold readTarget
  rw [h.busy, hheld]
  split
  · exact h.map (fun s => { s.logRead off (Config.busyRead s.draws) with draws := s.draws + 1 })
      (fun _ _ => rfl) rfl rfl
  · exact h.map (·.logRead off (s.held p g)) (fun _ _ => rfl) rfl rfl

theorem SameButWorking.busAccess_same (h : SameButWorking s s') (a : Access) :
    SameOutcome (busAccess p (execWith p) a s) (busAccess p (execWith p) a s') := by
  unfold busAccess
  cases a with
  | read off n =>
    dsimp only
    split
    · exact .next (h.readTarget_same off _)
    · exact .fault _
  | write off n v =>
    dsimp only
    split
    · exact h.writeTarget_same v _
    · exact .fault _

theorem SameButWorking.resetBlock_same (h : SameButWorking s s') : SameButWorking (resetBlock s) (resetBlock s') := by
  obtain ⟨w, m, -, -⟩ := h
  exact .of_unused _ _ nofun nofun

theorem SameButWorking.transition_same (h : SameButWorking s s') :
    SameOutcome (transition p (execWith p) s) (transition p (execWith p) s') := by
  have hrest : ∀ es, SameButWorking { s with events := es } { s' with events := es } := fun es =>
    h.map ({ · with events := es }) (fun _ _ => rfl) rfl rfl
  rcases he : s.events with _ | ⟨e, es⟩
  · rw [transition_nil he, transition_nil (h.events.trans he)]
    exact h.coreTurn_same
  · cases e with
    | core =>
      rw [transition_core he, transition_core (h.events.trans he)]
      exact (hrest es).coreTurn_same
    | reset =>
      rw [transition_reset he, transition_reset (h.events.trans he)]
      exact .next (hrest es).resetBlock_same
    | access a =>
      rw [transition_access he, transition_access (h.events.trans he)]
      exact (hrest es).busAccess_same a

/-- Settles O40: the two states differ only in the working state, and every transition of two such states has the same
outcome. -/
theorem workingStateNeverRead : Obligations.WorkingStateNeverRead := by
  intro s w m hstream hopening
  have hsame : SameOutcome (step s) (step (s.withWorking w m)) := by
    rw [step_eq_transition, step_eq_transition]
    exact (SameButWorking.intro w m hstream hopening).transition_same
  constructor
  · intro f hf
    rw [hf] at hsame
    generalize hstep : step (s.withWorking w m) = o at hsame
    cases hsame
    exact hstep
  · intro t ht
    rw [ht] at hsame
    generalize hstep : step (s.withWorking w m) = o at hsame
    obtain ⟨w', m', hs, ho⟩ := hsame
    exact ⟨w', m', hstep, hs, ho⟩

end Sys2Proof.Machine

namespace Sys2Proof.Machine

variable {p : Params} {s t : State}

/-! ## STATUS -/

@[simp] theorem Status.raise_busy (c : ErrCode) (st : Status) : (st.raise c).busy = st.busy := by
  unfold Status.raise
  split <;> rfl

@[simp] theorem Status.raise_done (c : ErrCode) (st : Status) : (st.raise c).done = st.done := by
  unfold Status.raise
  split <;> rfl

@[simp] theorem Status.raise_lastOp (c : ErrCode) (st : Status) : (st.raise c).lastOp = st.lastOp := by
  unfold Status.raise
  split <;> rfl

/-- ERRCODE agrees with ERR after an error, whose code is none of 0 (60_exceptions.md R211, R212). -/
theorem Status.raise_err_iff {c : ErrCode} {st : Status} (h : st.err = true ↔ st.errCode ≠ .none) (hc : c ≠ .none) :
    (st.raise c).err = true ↔ (st.raise c).errCode ≠ .none := by
  unfold Status.raise
  split
  · exact h
  · exact iff_of_true rfl hc

/-- Bit 2 clears ERR and ERRCODE together (20_memory.md R66). -/
theorem Status.writeOneToClear_err_iff (v : Word) {st : Status} (h : st.err = true ↔ st.errCode ≠ .none) :
    (st.writeOneToClear v).err = true ↔ (st.writeOneToClear v).errCode ≠ .none := by
  unfold Status.writeOneToClear
  cases hv : v.getLsbD 2
  · simpa using h
  · simp

theorem Status.reset_err_iff : Status.reset.err = true ↔ Status.reset.errCode ≠ .none := by decide

theorem StatusInv.raiseErr {c : ErrCode} (h : StatusInv s) (hc : c ≠ .none) : StatusInv (s.raiseErr c) where
  busy_iff := by simpa using h.busy_iff
  err_iff := Status.raise_err_iff h.err_iff hc
  done_idle := by simpa using h.done_idle
  lastOp_running := by simpa using h.lastOp_running
  lastOp_legal := by simpa using h.lastOp_legal

theorem StatusInv.writeStatus (h : StatusInv s) (v : Word) : StatusInv (s.writeStatus v) where
  busy_iff := h.busy_iff
  err_iff := Status.writeOneToClear_err_iff v h.err_iff
  done_idle hb := by simp [Status.writeOneToClear, h.done_idle hb]
  lastOp_running := h.lastOp_running
  lastOp_legal := h.lastOp_legal

theorem StatusInv.accept (h : StatusInv s) (i : Instr) : StatusInv (s.accept i) where
  busy_iff := iff_of_true rfl (by simp)
  err_iff := h.err_iff
  done_idle _ := rfl
  lastOp_running _ hi := by cases hi; rfl
  lastOp_legal := .inr ⟨i, rfl⟩

/-! ## The invariant through the changes of state -/

/-- With no MODULATE running nothing is said of the position or the sample count. -/
theorem ModulatorInv.of_idle (hmph : s.mph = .idle) (hop : s.curOp ≠ some .modulate) : ModulatorInv s := by
  constructor <;> simp [hmph, hop]

/-- An idle block: nothing is left of the operands' checks, of the position or of the sample count. -/
theorem Inv.of_idle (hbusy : s.status.busy = false) (hop : s.curOp = none) (hmph : s.mph = .idle)
    (herr : s.status.err = true ↔ s.status.errCode ≠ .none)
    (hlast : s.status.lastOp = 0#4 ∨ ∃ i : Instr, s.status.lastOp = i.opcode)
    (hmem : s.mem.wf p = true) (hslot : s.slotOffset.getLsbD 0 = false) : Inv p s where
  status := ⟨by simp [hbusy, hop], herr, by simp [hbusy], by simp [hop], hlast⟩
  operands := ⟨by simp [hop], by simp [hop], by simp [hop]⟩
  modulator := .of_idle hmph (by simp [hop])
  memory := hmem
  slot_even := hslot

/-- An idle block has no command and no phase (10_state.md R30, R34). -/
theorem Inv.idle (h : Inv p s) (hb : s.status.busy = false) : s.curOp = none ∧ s.mph = .idle := by
  have hop : s.curOp = none := by simpa [hb] using h.status.busy_iff
  have hmph : s.mph = .idle := by simpa [hop] using h.modulator.phase_iff
  exact ⟨hop, hmph⟩

/-- `Inv` reads neither the environment's lists, nor the records and counts, nor the working registers. -/
theorem Inv.congr (h : Inv p s) (ht : t = { s with
    work := t.work, events := t.events, answers := t.answers, sinkLog := t.sinkLog, reads := t.reads, draws := t.draws
    epoch := t.epoch }) : Inv p t := by
  obtain ⟨⟨hbusy, herr, hdone, hrun, hlast⟩, ⟨htext, hword, hrate⟩, ⟨hphase, hrange, hopen, hstream, hclose⟩,
    hmem, hslot⟩ := h
  rw [ht]
  exact ⟨⟨hbusy, herr, hdone, hrun, hlast⟩, ⟨htext, hword, hrate⟩, ⟨hphase, hrange, hopen, hstream, hclose⟩,
    hmem, hslot⟩

theorem Inv.setStatus (h : Inv p s) {st : Status} (hst : StatusInv { s with status := st }) :
    Inv p { s with status := st } where
  status := hst
  operands := ⟨h.operands.text_len, h.operands.word_count, h.operands.rate⟩
  modulator := ⟨h.modulator.phase_iff, h.modulator.stream_range, h.modulator.count_open, h.modulator.count_stream,
    h.modulator.count_close⟩
  memory := h.memory
  slot_even := h.slot_even

theorem Inv.raiseErr (h : Inv p s) {c : ErrCode} (hc : c ≠ .none) : Inv p (s.raiseErr c) :=
  h.setStatus (h.status.raiseErr hc)

theorem Inv.writeStatus (h : Inv p s) (v : Word) : Inv p (s.writeStatus v) :=
  h.setStatus (h.status.writeStatus v)

/-! ## Reset -/

theorem Inv.reset (p : Params) : Inv p State.reset :=
  .of_idle rfl rfl rfl Status.reset_err_iff (.inl rfl) (Memory.wf_reset p) rfl

/-- A reset transition leaves the reset state but for what `Inv` says nothing of (70_reset_and_hazards.md R241). -/
theorem Inv.resetBlock (s : State) : Inv p (resetBlock s) :=
  have h := Inv.reset p
  .of_idle rfl rfl rfl h.status.err_iff h.status.lastOp_legal h.memory h.slot_even

/-- Settles O41: after reset the block is idle, ERR and ERRCODE are 0, and no entry is written. -/
theorem resetMeetsInv : Obligations.ResetMeetsInv := ⟨Inv.reset, Inv.reset _⟩

/-! ## Host accesses -/

theorem Inv.readTarget (h : Inv p s) (off : Nat) (g : Target) : Inv p (readTarget p off g s) := by
  unfold Machine.readTarget
  split
  · exact h.congr rfl
  · exact h.congr rfl

/-- A store writes the operand registers, WORD_COUNT and the buffers (20_memory.md R65). -/
theorem storeTarget_frame (v : Word) (g : Target) (s : State) : ∃ pl ad fu sp tl br iv wc mm, storeTarget v g s =
    { s with payload := pl, addr := ad, func := fu, startPos := sp, textLen := tl, bitRate := br, invert := iv
             wordCount := wc, mem := mm } := by
  cases g with
  | text k => exact ⟨_, _, _, _, _, _, _, _, _, rfl⟩
  | word k => exact ⟨_, _, _, _, _, _, _, _, _, rfl⟩
  | reg r => cases r <;> exact ⟨_, _, _, _, _, _, _, _, _, rfl⟩

theorem wf_storeTarget {off : Nat} {g : Target} (v : Word) (hg : target? p off = some g) (h : s.mem.wf p = true) :
    (storeTarget v g s).mem.wf p = true := by
  have hexists := target?_some hg
  cases g with
  | text k => exact State.wf_setText _ hexists.1 h
  | word k => exact State.wf_setWord _ hexists.1 h
  | reg r => cases r <;> exact h

theorem Inv.storeTarget {off : Nat} {g : Target} (h : Inv p s) (v : Word) (hb : s.status.busy = false)
    (hg : target? p off = some g) : Inv p (storeTarget v g s) := by
  obtain ⟨hop, hmph⟩ := h.idle hb
  have hwf := wf_storeTarget v hg h.memory
  obtain ⟨pl, ad, fu, sp, tl, br, iv, wc, mm, hstore⟩ := storeTarget_frame v g s
  rw [hstore] at hwf ⊢
  exact .of_idle hb hop hmph h.status.err_iff h.status.lastOp_legal hwf h.slot_even

/-! ## Acceptance -/

theorem textLenCheck_eq_none : textLenCheck p s = none ↔ s.textLen.toNat ≤ p.textMax := by
  unfold textLenCheck State.textLenArg
  split <;> simp_all

theorem modulateCheck_eq_none : modulateCheck p s = none ↔
    s.wordCount.toNat ≤ p.wordMax ∧ s.bitRate.toNat ≠ 0 ∧ p.sampleRate / s.bitRate.toNat ≠ 0 := by
  unfold modulateCheck State.wordCountArg State.bitRateArg samplesPerBit
  split
  · simp_all
  · split
    · simp_all
    · split <;> simp_all

/-- A check that fails names an error (60_exceptions.md R212). -/
theorem commandCheck_ne_none {i : Instr} {c : ErrCode} (h : commandCheck p i s = some c) : c ≠ .none := by
  rintro rfl
  cases i with
  | encCw | encAddr => cases h
  | packText | assemble =>
    simp only [commandCheck, textLenCheck] at h
    split at h <;> cases h
  | modulate =>
    simp only [commandCheck, modulateCheck] at h
    split at h
    · cases h
    · split at h
      · cases h
      · split at h <;> cases h

/-- A compute command is accepted with MPH = IDLE, and its TEXT_LEN in range if it has one. -/
theorem Inv.accept {i : Instr} (h : Inv p s) (hb : s.status.busy = false) (hi : i ≠ .modulate)
    (htext : i = .packText ∨ i = .assemble → s.textLen.toNat ≤ p.textMax) : Inv p (s.accept i) where
  status := h.status.accept i
  operands := ⟨by simpa using htext, by simp [hi], by simp [hi]⟩
  modulator := .of_idle (h.idle hb).2 (by simp [hi])
  memory := h.memory
  slot_even := h.slot_even

/-- MODULATE is accepted in OPEN with SPB_L latched and no sample counted (44_modulator.md R191). -/
theorem Inv.accept_modulate (h : Inv p s) (hc : modulateCheck p s = none) :
    Inv p (modulateStart p (s.accept .modulate)) := by
  obtain ⟨hword, hrate, hspb⟩ := modulateCheck_eq_none.1 hc
  exact {
    status := by
      obtain ⟨hbusy, herr, hdone, hrun, hlast⟩ := h.status.accept .modulate
      exact ⟨hbusy, herr, hdone, hrun, hlast⟩
    operands := ⟨by simp [modulateStart], fun _ => hword, fun _ => ⟨hrate, rfl, Nat.pos_of_ne_zero hspb⟩⟩
    modulator := ⟨by simp [modulateStart], nofun, fun _ => rfl, nofun, nofun⟩
    memory := h.memory
    slot_even := h.slot_even }

theorem Inv.commandStart {i : Instr} (h : Inv p s) (hb : s.status.busy = false) (hc : commandCheck p i s = none) :
    Inv p (commandStart p i (s.accept i)) := by
  cases i with
  | encCw | encAddr => exact h.accept hb (by decide) (by simp)
  | packText | assemble => exact h.accept hb (by decide) fun _ => textLenCheck_eq_none.1 hc
  | modulate => exact h.accept_modulate hc

/-! ## The compute commands' core steps -/

/-- A slot offset is twice a slot (41_address.md R143). -/
theorem encodeAddress_offset_even (a f : Word) : (encodeAddress a f).2.getLsbD 0 = false := by
  have hslot : ∀ b : BitVec 3, (b.setWidth 4 * 2#4).getLsbD 0 = false := by decide
  exact hslot (slotOf a)

theorem State.length_chars (s : State) : s.chars.length = s.textLen.toNat := by
  simp [State.chars, State.textLenArg]

theorem State.startArg_lt (s : State) : s.startArg < 16 := (s.startPos.extractLsb' 0 4).isLt

/-- The end of a compute command, whatever its results, where the buffers keep their form and SLOT_OFFSET is even. -/
theorem Inv.finishCompute {i : Instr} (h : Inv p s) (hop : s.curOp = some i) (hi : i ≠ .modulate) {r : Word}
    {so po : BitVec 4} {mm : Memory} {wc : Word} (hmem : mm.wf p = true) (hslot : so.getLsbD 0 = false) :
    Inv p (State.finishCompute { s with result := r, slotOffset := so, position := po, mem := mm, wordCount := wc }) := by
  have hmph : s.mph = .idle := by simpa [hop, hi] using h.modulator.phase_iff
  exact .of_idle rfl rfl hmph h.status.err_iff h.status.lastOp_legal hmem hslot

theorem Inv.packTextCore_keeps (h : Inv p s) (hp : p.legal = true) (hop : s.curOp = some .packText)
    (hcore : packTextCore p s = .next t) : Inv p t := by
  cases hcore
  have hlen : s.chars.length ≤ p.textMax := s.length_chars ▸ h.operands.text_len (.inl hop)
  have hfit := (outputFitsWordBuffer p p.partialAlign s.addr s.func s.startArg s.chars hp hlen s.startArg_lt).2
  exact h.finishCompute hop (by decide) (State.wf_putWords hfit h.memory) h.slot_even

theorem Inv.assembleCore_keeps (h : Inv p s) (hp : p.legal = true) (hop : s.curOp = some .assemble)
    (hcore : assembleCore p s = .next t) : Inv p t := by
  cases hcore
  have hlen : s.chars.length ≤ p.textMax := s.length_chars ▸ h.operands.text_len (.inr hop)
  have hfit := (outputFitsWordBuffer p p.partialAlign s.addr s.func s.startArg s.chars hp hlen s.startArg_lt).1
  exact h.finishCompute hop (by decide) (State.wf_putWords hfit h.memory) (encodeAddress_offset_even s.addr s.func)

/-! ## MODULATE's core step -/

theorem Inv.logSink (h : Inv p s) (o : SinkOp) : Inv p (s.logSink o) := h.congr rfl

theorem Inv.takeSettled (h : Inv p s) : Inv p s.takeSettled.2 := by
  obtain ⟨as, d, hframe⟩ := s.takeSettled_frame
  rw [hframe]
  exact h.congr rfl

theorem Inv.takeWriteAnswer (h : Inv p s) : Inv p s.takeWriteAnswer.2 := by
  obtain ⟨as, d, hframe⟩ := s.takeWriteAnswer_frame
  rw [hframe]
  exact h.congr rfl

theorem Inv.sinkFail (h : Inv p s) : Inv p s.sinkFail :=
  .of_idle rfl rfl rfl (Status.raise_err_iff h.status.err_iff (by decide))
    (by simpa [Status.abandon] using h.status.lastOp_legal) h.memory h.slot_even

/-- The end of a MODULATE that did not fail (44_modulator.md R194). -/
theorem Inv.finishModulate (h : Inv p s) : Inv p s.complete.dropModulator :=
  .of_idle rfl rfl rfl h.status.err_iff h.status.lastOp_legal h.memory h.slot_even

/-- MODULATE moves to another phase, position or count while SPB_L stays latched. -/
theorem Inv.move (h : Inv p s) {ph : Phase} {m : ModPos} {n : Word} (hspb : m.spbL = s.mpos.spbL)
    (hmod : ModulatorInv { s with mph := ph, mpos := m, sampleCount := n }) :
    Inv p { s with mph := ph, mpos := m, sampleCount := n } where
  status := ⟨h.status.busy_iff, h.status.err_iff, h.status.done_idle, h.status.lastOp_running, h.status.lastOp_legal⟩
  operands := ⟨h.operands.text_len, h.operands.word_count, by simpa only [hspb] using h.operands.rate⟩
  modulator := hmod
  memory := h.memory
  slot_even := h.slot_even

/-- OPEN with WORD_COUNT = 0: all of the 0 samples are played (44_modulator.md R192). -/
theorem Inv.opened_empty (h : Inv p s) (hm : s.mph = .opening) (hn : s.wordCountArg = 0) :
    Inv p { s with mph := .closing } := by
  have hop : s.curOp = some .modulate := h.modulator.phase_iff.1 (by simp [hm])
  refine h.move (m := s.mpos) (n := s.sampleCount) rfl ⟨by simp [hop], nofun, nofun, nofun, fun _ => ?_⟩
  rw [State.wordCountArg] at hn
  simp [h.modulator.count_open hm, hn]

/-- OPEN with words to play: STREAM starts at the first sample (44_modulator.md R192). -/
theorem Inv.opened_stream (h : Inv p s) (hm : s.mph = .opening) (hn : s.wordCountArg ≠ 0) :
    Inv p { s with mph := .stream, mpos := { s.mpos with mw := 0, mb := 31, ms := 0 } } := by
  have hop : s.curOp = some .modulate := h.modulator.phase_iff.1 (by simp [hm])
  obtain ⟨-, -, hspb⟩ := h.operands.rate hop
  refine h.move (n := s.sampleCount) rfl
    ⟨by simp [hop], fun _ => ⟨Nat.pos_of_ne_zero hn, Nat.le_refl 31, hspb⟩, nofun, fun _ => ?_, nofun⟩
  simp [h.modulator.count_open hm, samplesDone]

theorem Inv.openStep (h : Inv p s) (hm : s.mph = .opening) : Inv p (openStep s) := by
  have htaken (o : SinkOp) : Inv p (s.takeSettled.2.logSink o) := h.takeSettled.logSink o
  obtain ⟨as, d, hframe⟩ := s.takeSettled_frame
  cases ha : s.takeSettled.1
  · rw [openStep_fail ha]
    exact (htaken _).sinkFail
  · by_cases hn : s.wordCountArg = 0
    · rw [openStep_empty ha hn]
      exact (htaken _).opened_empty (by simp [hframe, hm]) (by simpa [hframe, State.wordCountArg] using hn)
    · rw [openStep_stream ha hn]
      exact (htaken _).opened_stream (by simp [hframe, hm]) (by simpa [hframe, State.wordCountArg] using hn)

/-- An accepted sample is counted, and after the last one every sample is (44_modulator.md R193, R196). -/
theorem Inv.sampleAccepted (h : Inv p s) (hm : s.mph = .stream) : Inv p s.sampleAccepted := by
  have hop : s.curOp = some .modulate := h.modulator.phase_iff.1 (by simp [hm])
  have hrange := h.modulator.stream_range hm
  have hcount : s.sampleCount + 1#32 = BitVec.ofNat 32 (samplesDone s.mpos + 1) := by
    rw [h.modulator.count_stream hm, BitVec.ofNat_add]
  rcases nextPos_range hrange with ⟨hlast, hend, hall⟩ | ⟨hmore, hnext⟩
  · rw [State.sampleAccepted_last hlast hend]
    refine h.move (nextPos_spbL _) ⟨by simp [hop], nofun, nofun, nofun, fun _ => ?_⟩
    simp only [hcount, hall, nextPos_spbL]
  · rw [State.sampleAccepted_more hmore]
    refine h.move (ph := s.mph) (nextPos_spbL _)
      ⟨by simp [hop, hm], fun _ => hnext, by simp [hm], fun _ => ?_, by simp [hm]⟩
    rw [hcount, samplesDone_nextPos _ hrange.2.1 hrange.2.2]

theorem Inv.streamStep (h : Inv p s) (hm : s.mph = .stream) : Inv p (streamStep s) := by
  obtain ⟨as, d, hframe⟩ := s.takeWriteAnswer_frame
  cases ha : s.takeWriteAnswer.1
  · rw [streamStep_ok ha]
    exact (h.takeWriteAnswer.logSink _).sampleAccepted (by simp [hframe, hm])
  · rw [streamStep_fail ha]
    exact (h.takeWriteAnswer.logSink _).sinkFail
  · rw [streamStep_held ha]
    exact h.takeWriteAnswer

theorem Inv.closeStep (h : Inv p s) : Inv p (closeStep s) := by
  cases ha : s.takeSettled.1
  · rw [closeStep_fail ha]
    exact (h.takeSettled.logSink _).sinkFail
  · rw [closeStep_ok ha]
    exact (h.takeSettled.logSink _).finishModulate

theorem Inv.modulateCore_keeps (h : Inv p s) (hcore : modulateCore s = .next t) : Inv p t := by
  cases hm : s.mph
  · rw [modulateCore_idle hm] at hcore
    cases hcore
    exact h
  · rw [modulateCore_opening hm] at hcore
    cases hcore
    exact h.openStep hm
  · rw [modulateCore_stream hm] at hcore
    cases hcore
    exact h.streamStep hm
  · rw [modulateCore_closing hm] at hcore
    cases hcore
    exact h.closeStep

/-! ## Every transition keeps the invariant -/

theorem Inv.commandCore_keeps {i : Instr} (h : Inv p s) (hp : p.legal = true) (hop : s.curOp = some i)
    (hcore : commandCore p i s = .next t) : Inv p t := by
  cases i with
  | encCw =>
    cases hcore
    exact h.finishCompute hop (by decide) h.memory h.slot_even
  | encAddr =>
    cases hcore
    exact h.finishCompute hop (by decide) h.memory (encodeAddress_offset_even s.addr s.func)
  | packText => exact h.packTextCore_keeps hp hop hcore
  | assemble => exact h.assembleCore_keeps hp hop hcore
  | modulate => exact h.modulateCore_keeps hcore

theorem Inv.execWith_keeps {i : Instr} (h : Inv p s) (hp : p.legal = true) (he : execWith p i s = .next t) : Inv p t := by
  rw [execWith_eq_perform] at he
  rcases perform_next he with ⟨hr, hcore⟩ | ⟨-, -, rfl⟩ | ⟨c, -, hc, rfl⟩ | ⟨hb, hc, rfl⟩
  · exact h.commandCore_keeps hp (State.running_iff.1 hr).2 hcore
  · exact h.raiseErr (by decide)
  · exact h.raiseErr (commandCheck_ne_none hc)
  · exact h.commandStart hb hc

theorem Inv.coreTurn_keeps (h : Inv p s) (hp : p.legal = true) (hstep : coreTurn (execWith p) s = .next t) :
    Inv p t := by
  rcases coreTurn_next hstep with ⟨i, -, -, he⟩ | ⟨-, rfl⟩
  · exact h.execWith_keeps hp he
  · exact h

theorem Inv.busAccess_keeps {a : Access} (h : Inv p s) (hp : p.legal = true)
    (hstep : busAccess p (execWith p) a s = .next t) : Inv p t := by
  rcases busAccess_next hstep with ⟨off, g, rfl, hg, rfl⟩ | ⟨off, v, g, rfl, hg, hw⟩
  · exact h.readTarget off g
  · rcases writeTarget_next hw with ⟨rfl, hs⟩ | ⟨rfl, rfl⟩ | ⟨-, -, -, rfl⟩ | ⟨-, -, hb, rfl⟩
    · rcases submitWord_next hs with ⟨-, rfl⟩ | ⟨why, -, -, rfl⟩ | ⟨i, -, -, he⟩
      · exact h.raiseErr (by decide)
      · exact h.raiseErr (by decide)
      · exact h.execWith_keeps hp he
    · exact h.writeStatus v
    · exact h
    · exact h.storeTarget v hb hg

theorem Inv.transition_keeps (h : Inv p s) (hp : p.legal = true) (hstep : transition p (execWith p) s = .next t) :
    Inv p t := by
  have hrest (es : List Event) : Inv p { s with events := es } := h.congr rfl
  rcases he : s.events with _ | ⟨e, es⟩
  · rw [transition_nil he] at hstep
    exact h.coreTurn_keeps hp hstep
  · cases e with
    | core =>
      rw [transition_core he] at hstep
      exact (hrest es).coreTurn_keeps hp hstep
    | reset =>
      rw [transition_reset he] at hstep
      cases hstep
      exact .resetBlock _
    | access a =>
      rw [transition_access he] at hstep
      exact (hrest es).busAccess_keeps hp hstep

/-- Settles O42: at a legal parameter set each kind of transition keeps the invariant, and `step` is the transition at
`Config.params`. -/
theorem stepKeepsInv : Obligations.StepKeepsInv :=
  ⟨fun _ _ _ hp h hstep => h.transition_keeps hp hstep,
   fun s _ h hstep => h.transition_keeps Config.params_legal (step_eq_transition s ▸ hstep)⟩

end Sys2Proof.Machine

namespace Sys2Proof.Machine

variable {p : Params} {s t : State}

/-! ## What a step leaves unchanged -/

/-- A step that is no reset: the running command's, a host store at an idle block, or one that leaves operands, results and
buffers alone. -/
theorem step_frame_cases (hreset : ∀ es, s.events ≠ .reset :: es) (h : step s = .next t) :
    (∃ i es, s.status.busy = true ∧ s.curOp = some i ∧ exec i { s with events := es } = .next t) ∨
    (∃ es es' off v g, s.events = .access (.write off 4 v) :: es' ∧ target? Config.params off = some g ∧
      s.status.busy = false ∧ t = storeTarget v g { s with events := es }) ∨
    (∃ st co mp mh sc es l d, t = { s with
      status := st, curOp := co, mpos := mp, mph := mh, sampleCount := sc, events := es, reads := l, draws := d }) := by
  rcases step_cases h with ⟨es, he, -⟩ | hrun | ⟨es, rfl⟩ | ⟨es, v, rfl⟩ | ⟨es, c, rfl⟩ | ⟨es, l, d, rfl⟩ |
    ⟨i, es, hb, he⟩ | hstore
  · exact absurd he (hreset es)
  · exact .inl hrun
  · exact .inr (.inr ⟨_, _, _, _, _, _, _, _, rfl⟩)
  · exact .inr (.inr ⟨_, _, _, _, _, _, _, _, rfl⟩)
  · exact .inr (.inr ⟨_, _, _, _, _, _, _, _, rfl⟩)
  · exact .inr (.inr ⟨_, _, _, _, _, _, _, _, rfl⟩)
  · obtain ⟨st, co, mp, mh, sc, rfl⟩ := exec_submit_cases (s := { s with events := es }) hb he
    exact .inr (.inr ⟨_, _, _, _, _, _, _, _, rfl⟩)
  · exact .inr (.inl hstore)

theorem State.textEntry_congr (htext : t.mem.text = s.mem.text) (hepoch : t.epoch = s.epoch) (k : Nat) :
    t.textEntry k = s.textEntry k := by
  rw [State.textEntry, State.textEntry, htext, hepoch]

/-- Settles O43: a step of a busy block that is no reset is the running command's or leaves operands and buffers alone; a
compute command ends in its step, and MODULATE writes neither buffer. -/
theorem operandsFrozenWhileBusy : Obligations.OperandsFrozenWhileBusy := by
  intro s t hb hreset hstep
  rcases step_frame_cases hreset hstep with ⟨i, es, -, hop, he⟩ | ⟨_, _, _, _, _, -, -, hidle, -⟩ |
    ⟨_, _, _, _, _, _, _, _, rfl⟩
  · rcases exec_running_cases (s := { s with events := es }) hb hop he with
      ⟨-, hend, -, _, _, _, mm, _, _, _, rfl, htext, -⟩ | ⟨-, _, _, _, _, _, _, _, _, rfl, -⟩
    · have hover := Bool.eq_false_iff.1 hend
      exact ⟨rfl, rfl, rfl, rfl, rfl, rfl, rfl, State.textEntry_congr htext rfl, fun hbusy => absurd hbusy hover⟩
    · exact ⟨rfl, rfl, rfl, rfl, rfl, rfl, rfl, fun _ => rfl, fun _ => ⟨rfl, fun _ => rfl⟩⟩
  · rw [hb] at hidle
    cases hidle
  · exact ⟨rfl, rfl, rfl, rfl, rfl, rfl, rfl, fun _ => rfl, fun _ => ⟨rfl, fun _ => rfl⟩⟩

/-- Only a write of WORD_COUNT itself stores to it (20_memory.md R65). -/
theorem storeTarget_wordCount (v : Word) (g : Target) (s : State) :
    (storeTarget v g s).wordCount = if g = .reg .wordCount then v else s.wordCount := by
  cases g with
  | text k => rfl
  | word k => rfl
  | reg r => cases r <;> rfl

/-- Settles O44: a compute command completes with the results it has, MODULATE and the steps that leave the results alone
write none, and a host store reaches WORD_COUNT at its own offset alone. -/
theorem resultsWrittenOnlyAtCompletion : Obligations.ResultsWrittenOnlyAtCompletion := by
  intro s t hreset hstep
  rcases step_frame_cases hreset hstep with ⟨i, es, hb, hop, he⟩ | ⟨es, es', off, v, g, hev, hg, hidle, rfl⟩ |
    ⟨_, _, _, _, _, _, _, _, rfl⟩
  · rcases exec_running_cases (s := { s with events := es }) hb hop he with
      ⟨-, hend, hdone, _, _, _, _, _, _, _, rfl, -, hr, hso, hpo, hwc⟩ | ⟨-, _, _, _, _, _, _, _, _, rfl, -⟩
    · simp only [hop, Option.some.injEq]
      exact ⟨fun hne => ⟨hb, hend, hdone, hr hne⟩, fun hne => ⟨hb, hend, hdone, hso hne⟩,
        fun hne => ⟨hb, hend, hdone, hpo hne⟩, fun hne => .inl ⟨hb, hend, hdone, hwc hne⟩⟩
    · exact ⟨fun hne => absurd rfl hne, fun hne => absurd rfl hne, fun hne => absurd rfl hne, fun hne => absurd rfl hne⟩
  · have hword := storeTarget_wordCount v g { s with events := es }
    obtain ⟨_, _, _, _, _, _, _, wc, _, hstore⟩ := storeTarget_frame v g { s with events := es }
    rw [hstore] at hword ⊢
    refine ⟨fun hne => absurd rfl hne, fun hne => absurd rfl hne, fun hne => absurd rfl hne, fun hne => ?_⟩
    split at hword
    · next hcount =>
      subst hcount
      have hoff : off = 0x02C := target?_some hg
      exact .inr ⟨hidle, v, es', hoff ▸ hev, hword⟩
    · exact absurd hword hne
  · exact ⟨fun hne => absurd rfl hne, fun hne => absurd rfl hne, fun hne => absurd rfl hne, fun hne => absurd rfl hne⟩

/-! ## A CMD write at an idle block -/

/-- A write of CMD submits the word (10_state.md R26). -/
theorem step_cmdWrite {es : List Event} {v : Word} (h : s.events = .access (.write 0x000 4 v) :: es) :
    step s = submitWord exec v { s with events := es } :=
  transition_access h

theorem submitWord_command {run : Instr → State → Host.Outcome State Fault Refusal} {v : Word} {i : Instr}
    (hb : s.status.busy = false) (hv : decode v = .command i) : submitWord run v s = run i s := by
  simp [submitWord, hb, hv]

theorem commandWord (i : Instr) : Laws.CommandWord.Statement i := by
  cases i
  exacts [Laws.CommandWord.encCw, Laws.CommandWord.encAddr, Laws.CommandWord.packText, Laws.CommandWord.assemble,
    Laws.CommandWord.modulate]

theorem decode_encode (i : Instr) : decode (encode i) = .command i := by
  obtain ⟨-, -, -, -, -, hdecode⟩ := commandWord i
  exact hdecode

theorem State.withFetchWord_encode (s : State) (i : Instr) : s.withFetchWord 32 (encode i).toNat =
    { s with events := .access (.write 0x000 4 (encode i)) :: s.events } := by
  have hword : BitVec.ofNat 32 ((encode i).toNat % 2 ^ 32) = encode i := by
    rw [Nat.mod_eq_of_lt (encode i).isLt, BitVec.ofNat_toNat, BitVec.setWidth_eq]
  rw [State.withFetchWord, hword]

/-- Settles O4: the write of CMD submits its word, an idle block runs what the word decodes to, and the word `withFetchWord`
writes is the command's own. -/
theorem submittedCommandRuns : Obligations.SubmittedCommandRuns := by
  have hrun : ∀ (s : State) (es : List Event) (v : Word) (i : Instr), s.events = .access (.write 0x000 4 v) :: es →
      s.status.busy = false → decode v = .command i → step s = exec i { s with events := es } := by
    intro s es v i hev hb hv
    exact (step_cmdWrite hev).trans (submitWord_command hb hv)
  refine ⟨hrun, fun s i hb => ?_⟩
  rw [s.withFetchWord_encode i]
  exact hrun _ s.events (encode i) i rfl hb (decode_encode i)

/-! ## STATUS as it is read -/

theorem Status.getLsbD_word (st : Status) (i : Nat) : st.word.getLsbD i =
    if i = 0 then st.busy else if i = 1 then st.done else if i = 2 then st.err else if i = 3 then false
    else if i < 8 then st.errCode.code.getLsbD (i - 4) else if i < 12 then st.lastOp.getLsbD (i - 8) else false := by
  unfold Status.word
  simp only [BitVec.getLsbD_append, BitVec.getLsbD_ofBool]
  match i with
  | 0 => simp
  | 1 => simp
  | 2 => simp
  | 3 => simp
  | i + 4 =>
    have hcode : i < 4 ↔ i + 4 < 8 := by omega
    have hlast : i - 4 < 4 ↔ i + 4 < 12 := by omega
    have hindex : i + 4 - 8 = i - 4 := by omega
    simp [hcode, hlast, hindex]

/-- Settles O6: every bit of the word by `getLsbD_word`, and the codes by the definition of `ErrCode.code`. -/
theorem statusWordLayout : Obligations.StatusWordLayout := by
  refine ⟨fun st => ⟨?_, ?_, ?_, ?_, ?_, ?_, ?_⟩, rfl, rfl, rfl, rfl, rfl, rfl, rfl⟩
  · exact st.getLsbD_word 0
  · exact st.getLsbD_word 1
  · exact st.getLsbD_word 2
  · exact st.getLsbD_word 3
  · ext i hi
    rw [BitVec.getElem_extractLsb', st.getLsbD_word]
    interval_cases i <;> rfl
  · ext i hi
    rw [BitVec.getElem_extractLsb', st.getLsbD_word]
    interval_cases i <;> rfl
  · ext i hi
    rw [BitVec.getElem_extractLsb', st.getLsbD_word, if_neg (by omega), if_neg (by omega), if_neg (by omega),
      if_neg (by omega), if_neg (by omega), if_neg (by omega), BitVec.getElem_zero]

/-! ## The offsets of the map -/

theorem target?_reg_offset (p : Params) (r : Reg) : target? p r.offset = some (.reg r) := by
  cases r <;> rfl

theorem target?_text_offset {k : Nat} (hk : k < p.textMax) (hmax : p.textMax ≤ 256) :
    target? p (Target.text k).offset = some (.text k) := by
  have hoff : (Target.text k).offset = 0x400 + 4 * k := rfl
  have hentry : (0x400 + 4 * k - 0x400) / 4 = k := by omega
  rw [hoff, target?, if_neg (by omega), if_neg (by omega), if_pos (by omega), hentry, if_pos hk]

theorem target?_word_offset {k : Nat} (hk : k < p.wordMax) : target? p (Target.word k).offset = some (.word k) := by
  have hoff : (Target.word k).offset = 0x800 + 4 * k := rfl
  have hentry : (0x800 + 4 * k - 0x800) / 4 = k := by omega
  rw [hoff, target?, if_neg (by omega), if_neg (by omega), if_neg (by omega), hentry, if_pos hk]

/-- Settles O11: a register's offset is looked up, and an entry's lies in its buffer's range, which TEXT_MAX keeps below
WORD's. -/
theorem offsetsReachTheirTargets : Obligations.OffsetsReachTheirTargets := by
  intro p hp
  obtain ⟨-, htext, -⟩ := p.legal_iff.1 hp
  exact ⟨target?_reg_offset p, fun k hk => target?_text_offset hk htext, fun k hk => target?_word_offset hk⟩

end Sys2Proof.Machine

/-!
PROOFS of the memory family (20_memory.md): the mapped offsets (R63), what a host access answers and what stops a step
(R62), the value of every read (R64), the effect of every write (R65, R66), and the sink's stream (R78).
-/

namespace Sys2Proof.Machine

open Host (Outcome)

variable {p : Params} {s t : State} {off n : Nat} {v : Word} {g : Target} {es : List Event}

/-! ## The mapped offsets -/

theorem Reg.offset_eq_four_mul (r : Reg) : ∃ k, k < 15 ∧ r.offset = 4 * k :=
  ⟨r.offset / 4, by cases r <;> decide, by cases r <;> rfl⟩

/-- The fifteen word offsets from 0 on are the registers' (10_state.md R22). -/
theorem Reg.at?_isSome : ∀ k, k < 15 → (Reg.at? (4 * k)).isSome = true := by decide

theorem target?_registers {k : Nat} (hk : k < 15) : (target? p (4 * k)).isSome = true := by
  rw [target?, if_neg (by omega), if_pos (by omega), Option.isSome_map]
  exact Reg.at?_isSome k hk

/-- Settles O10: a target that is reached stands at one of these offsets, and each of them reaches one. -/
theorem mappedOffsets : Obligations.MappedOffsets := by
  intro p off hp
  obtain ⟨-, htext, -⟩ := p.legal_iff.1 hp
  constructor
  · intro hmapped
    obtain ⟨g, hg⟩ := Option.isSome_iff_exists.1 hmapped
    have hoff := target?_some hg
    cases g with
    | reg r =>
      obtain ⟨k, hk, hr⟩ := r.offset_eq_four_mul
      exact .inl ⟨k, hk, hoff.trans hr⟩
    | text k => exact .inr (.inl ⟨k, hoff⟩)
    | word k => exact .inr (.inr ⟨k, hoff⟩)
  · rintro (⟨k, hk, rfl⟩ | ⟨k, hk, rfl⟩ | ⟨k, hk, rfl⟩)
    · exact target?_registers hk
    · exact Option.isSome_of_eq_some (target?_text_offset hk htext)
    · exact Option.isSome_of_eq_some (target?_word_offset hk)

/-! The offsets of the map at `Config.params`, where both buffers have 256 entries. -/

theorem target?_of_reg (r : Reg) (hoff : off = r.offset) : target? Config.params off = some (.reg r) :=
  hoff ▸ target?_reg_offset Config.params r

theorem target?_of_text {k : Nat} (hk : k < 256) (hoff : off = 0x400 + 4 * k) :
    target? Config.params off = some (.text k) :=
  hoff ▸ target?_text_offset (p := Config.params) hk (Nat.le_refl 256)

theorem target?_of_word {k : Nat} (hk : k < 256) (hoff : off = 0x800 + 4 * k) :
    target? Config.params off = some (.word k) :=
  hoff ▸ target?_word_offset (p := Config.params) hk

/-! ## What a host access answers -/

/-- The target an access reaches: none where its size is not 4 or its offset misaligned or unmapped. -/
def Access.reach (p : Params) : Access → Option Target
  | .read off n | .write off n _ => if n = 4 then target? p off else none

/-- The fault an access that reaches no target raises (60_exceptions.md R220). -/
def Access.error : Access → Fault
  | .read off n => .busError off n .read
  | .write off n _ => .busError off n .write

theorem busAccess_read {run : Instr → State → Outcome State Fault Refusal} (h : (Access.read off n).reach p = some g) :
    busAccess p run (.read off n) s = .next (readTarget p off g s) := by
  rw [Access.reach] at h
  simp [busAccess, h]

theorem busAccess_write {run : Instr → State → Outcome State Fault Refusal}
    (h : (Access.write off n v).reach p = some g) : busAccess p run (.write off n v) s = writeTarget run v g s := by
  rw [Access.reach] at h
  simp [busAccess, h]

theorem busAccess_error {run : Instr → State → Outcome State Fault Refusal} {a : Access} (h : a.reach p = none) :
    busAccess p run a s = .fault a.error := by
  cases a with
  | read off n | write off n v =>
    rw [Access.reach] at h
    simp [busAccess, h, Access.error]

/-- A read of a mapped offset, as one step. -/
theorem step_read (he : s.events = .access (.read off 4) :: es) (hg : target? Config.params off = some g) :
    step s = .next (readTarget Config.params off g { s with events := es }) :=
  (transition_access he).trans (busAccess_read hg)

/-- A write of a mapped offset, as one step. -/
theorem step_write (he : s.events = .access (.write off 4 v) :: es) (hg : target? Config.params off = some g) :
    step s = writeTarget exec v g { s with events := es } :=
  (transition_access he).trans (busAccess_write hg)

/-! ## What stops a step -/

theorem target?_misaligned (h : off % 4 ≠ 0) : target? p off = none := if_pos h

/-- The three ways to reach no target (20_memory.md R62). -/
theorem reach_eq_none_iff : (if n = 4 then target? p off else none) = none ↔
    n ≠ 4 ∨ off % 4 ≠ 0 ∨ (target? p off).isSome = false := by
  by_cases hn : n = 4
  · by_cases hoff : off % 4 = 0
    · simp [hn, hoff]
    · simp [hn, hoff, target?_misaligned]
  · simp [hn]

theorem commandCore_answers (p : Params) (i : Instr) (s : State) : ∃ t, commandCore p i s = .next t := by
  cases i with
  | encCw | encAddr | packText | assemble => exact ⟨_, rfl⟩
  | modulate =>
    cases hm : s.mph
    · exact ⟨_, modulateCore_idle hm⟩
    · exact ⟨_, modulateCore_opening hm⟩
    · exact ⟨_, modulateCore_stream hm⟩
    · exact ⟨_, modulateCore_closing hm⟩

theorem execWith_answers (p : Params) (i : Instr) (s : State) : ∃ t, execWith p i s = .next t := by
  rw [execWith_eq_perform]
  cases hr : s.running i
  · rw [perform_not_running hr]
    rcases submit_cases i (commandCheck p i) (commandStart p i) s with ⟨-, hs⟩ | ⟨_, -, -, hs⟩ | ⟨-, -, hs⟩
    · exact ⟨_, hs⟩
    · exact ⟨_, hs⟩
    · exact ⟨_, hs⟩
  · rw [perform_running hr]
    exact commandCore_answers p i s

theorem coreTurn_answers (p : Params) (s : State) : ∃ t, coreTurn (execWith p) s = .next t := by
  unfold coreTurn
  split
  · split
    · exact execWith_answers p _ s
    · exact ⟨_, rfl⟩
  · exact ⟨_, rfl⟩

theorem submitWord_answers (p : Params) (v : Word) (s : State) : ∃ t, submitWord (execWith p) v s = .next t := by
  unfold submitWord
  split
  · exact ⟨_, rfl⟩
  · split
    · exact ⟨_, rfl⟩
    · exact execWith_answers p _ s

theorem writeTarget_answers (p : Params) (v : Word) (g : Target) (s : State) :
    ∃ t, writeTarget (execWith p) v g s = .next t := by
  unfold writeTarget
  split
  · exact submitWord_answers p v s
  · exact ⟨_, rfl⟩
  · split
    · exact ⟨_, rfl⟩
    · exact ⟨_, rfl⟩

theorem busAccess_answers {a : Access} (h : a.reach p = some g) : ∃ t, busAccess p (execWith p) a s = .next t := by
  cases a with
  | read off n => exact ⟨_, busAccess_read h⟩
  | write off n v =>
    rw [busAccess_write h]
    exact writeTarget_answers p v g s

/-- A step answers a next state, except the host access that reaches no target. -/
theorem step_outcome (s : State) : (∃ t, step s = .next t) ∨
    ∃ a es, s.events = .access a :: es ∧ a.reach Config.params = none ∧ step s = .fault a.error := by
  rw [step_eq_transition]
  rcases he : s.events with _ | ⟨e, es⟩
  · rw [transition_nil he]
    exact .inl (coreTurn_answers _ s)
  · cases e with
    | core =>
      rw [transition_core he]
      exact .inl (coreTurn_answers _ _)
    | reset => exact .inl ⟨_, transition_reset he⟩
    | access a =>
      rw [transition_access he]
      cases hr : a.reach Config.params with
      | none => exact .inr ⟨a, es, rfl, hr, busAccess_error hr⟩
      | some g => exact .inl (busAccess_answers hr)

theorem step_fault {f : Fault} (h : step s = .fault f) :
    ∃ a es, s.events = .access a :: es ∧ a.reach Config.params = none ∧ f = a.error := by
  rcases step_outcome s with ⟨t, ht⟩ | ⟨a, es, he, hr, ha⟩
  · cases h.symm.trans ht
  · cases h.symm.trans ha
    exact ⟨a, es, he, hr, rfl⟩

theorem step_access_fault_iff {a : Access} (he : s.events = .access a :: es) :
    step s = .fault a.error ↔ a.reach Config.params = none := by
  constructor
  · intro h
    obtain ⟨b, es', hb, hr, -⟩ := step_fault h
    cases he.symm.trans hb
    exact hr
  · exact fun hr => (transition_access he).trans (busAccess_error hr)

/-- Settles O12: a step faults at an access that reaches no target, which is one of a wrong size, misaligned or unmapped,
and answers a next state otherwise. -/
theorem onlyBusErrorsStop : Obligations.OnlyBusErrorsStop := by
  refine ⟨fun s es off n he => (step_access_fault_iff he).trans reach_eq_none_iff,
    fun s es off n v he => (step_access_fault_iff he).trans reach_eq_none_iff, fun s f h => ?_, fun s r h => ?_⟩
  · obtain ⟨a, es, he, -, rfl⟩ := step_fault h
    cases a with
    | read off n => exact ⟨off, n, es, .inl ⟨he, rfl⟩⟩
    | write off n v => exact ⟨off, n, es, .inr ⟨v, he, rfl⟩⟩
  · rcases step_outcome s with ⟨t, ht⟩ | ⟨a, es, -, -, ha⟩
    · cases h.symm.trans ht
    · cases h.symm.trans ha

/-! ## The value of a read -/

theorem readTarget_held (h : s.status.busy = false ∨ g.unstable = false) :
    readTarget p off g s = s.logRead off (s.held p g) := by
  rcases h with h | h <;> simp [readTarget, h]

theorem readTarget_unstable (hb : s.status.busy = true) (hg : g.unstable = true) :
    readTarget p off g s = { s.logRead off (Config.busyRead s.draws) with draws := s.draws + 1 } := by
  simp [readTarget, hb, hg]

/-- A read that is specified returns the value held, and changes nothing in the block. -/
theorem step_read_held (he : s.events = .access (.read off 4) :: es) (hg : target? Config.params off = some g)
    (h : s.status.busy = false ∨ g.unstable = false) :
    step s = .next ({ s with events := es }.logRead off (State.held Config.params { s with events := es } g)) :=
  (step_read he hg).trans (congrArg Outcome.next (readTarget_held h))

/-- A result read while BUSY = 1 returns some value, and changes nothing in the block. -/
theorem step_read_unstable (he : s.events = .access (.read off 4) :: es) (hg : target? Config.params off = some g)
    (hb : s.status.busy = true) (hu : g.unstable = true) :
    ∃ v, step s = .next { s with events := es, reads := (off, v) :: s.reads, draws := s.draws + 1 } :=
  ⟨_, (step_read he hg).trans (congrArg Outcome.next (readTarget_unstable hb hu))⟩

/-- INFO's two halves (10_state.md R27). -/
theorem infoWord_toNat (hp : p.legal = true) : (infoWord p).toNat = p.wordMax * 2 ^ 16 + p.textMax := by
  obtain ⟨-, htext, -, hword, -⟩ := p.legal_iff.1 hp
  have htextLow : p.textMax % 2 ^ 16 = p.textMax := Nat.mod_eq_of_lt (by omega)
  have hwordLow : p.wordMax % 2 ^ 16 = p.wordMax := Nat.mod_eq_of_lt (by omega)
  rw [infoWord, BitVec.toNat_append, BitVec.toNat_ofNat, BitVec.toNat_ofNat, htextLow, hwordLow,
    ← Nat.shiftLeft_add_eq_or_of_lt (by omega), Nat.shiftLeft_eq]

/-- Settles O13: each offset reaches its target, whose read returns the value held; a result's read does so while BUSY = 0,
and a free value while BUSY = 1. -/
theorem readValues : Obligations.ReadValues := by
  intro s es off he
  have hstable (r : Reg) (hr : (Target.reg r).unstable = false) (hoff : off = r.offset) :=
    step_read_held he (target?_of_reg r hoff) (.inr hr)
  have hidle (hb : s.status.busy = false) (r : Reg) (hoff : off = r.offset) :=
    step_read_held he (target?_of_reg r hoff) (.inl hb)
  have hbusy (hb : s.status.busy = true) (r : Reg) (hr : (Target.reg r).unstable = true) (hoff : off = r.offset) :=
    step_read_unstable he (target?_of_reg r hoff) hb hr
  refine ⟨hstable .cmd rfl, hstable .status rfl, hstable .payload rfl, hstable .addr rfl, hstable .func rfl,
    hstable .startPos rfl, hstable .textLen rfl, hstable .bitRate rfl, hstable .invert rfl, hstable .info rfl,
    fun k hk hoff => step_read_held he (target?_of_text hk hoff) (.inr rfl), fun hb => ?_, fun hb hoff => ?_,
    fun p hp => infoWord_toNat hp⟩
  · exact ⟨hidle hb .result, hidle hb .slotOffset, hidle hb .wordCount, hidle hb .position, hidle hb .sampleCount,
      fun k hk hoff => step_read_held he (target?_of_word hk hoff) (.inl hb)⟩
  · rcases hoff with hoff | hoff | hoff | hoff | hoff | ⟨k, hk, hoff⟩
    · exact hbusy hb .result rfl hoff
    · exact hbusy hb .slotOffset rfl hoff
    · exact hbusy hb .wordCount rfl hoff
    · exact hbusy hb .position rfl hoff
    · exact hbusy hb .sampleCount rfl hoff
    · exact step_read_unstable he (target?_of_word hk hoff) hb rfl

/-! ## The effect of a write -/

theorem writeTarget_store {run : Instr → State → Outcome State Fault Refusal} (hb : s.status.busy = false)
    (hcmd : g ≠ .reg .cmd) (hstatus : g ≠ .reg .status) : writeTarget run v g s = .next (storeTarget v g s) := by
  unfold writeTarget
  split
  · exact absurd rfl hcmd
  · exact absurd rfl hstatus
  · exact if_neg (by simp [hb])

theorem writeTarget_busy {run : Instr → State → Outcome State Fault Refusal} (hb : s.status.busy = true)
    (hcmd : g ≠ .reg .cmd) (hstatus : g ≠ .reg .status) : writeTarget run v g s = .next s := by
  unfold writeTarget
  split
  · exact absurd rfl hcmd
  · exact absurd rfl hstatus
  · exact if_pos hb

/-- A write while BUSY = 0 stores. -/
theorem step_write_store (he : s.events = .access (.write off 4 v) :: es) (hg : target? Config.params off = some g)
    (hb : s.status.busy = false) (hcmd : g ≠ .reg .cmd) (hstatus : g ≠ .reg .status) :
    step s = .next (storeTarget v g { s with events := es }) :=
  (step_write he hg).trans (writeTarget_store hb hcmd hstatus)

/-- A write while BUSY = 1 is ignored. -/
theorem step_write_busy (he : s.events = .access (.write off 4 v) :: es) (hg : target? Config.params off = some g)
    (hb : s.status.busy = true) (hcmd : g ≠ .reg .cmd) (hstatus : g ≠ .reg .status) :
    step s = .next { s with events := es } :=
  (step_write he hg).trans (writeTarget_busy hb hcmd hstatus)

/-- A write of a register that stores nothing is ignored at any time. -/
theorem step_write_readOnly (he : s.events = .access (.write off 4 v) :: es)
    (hg : target? Config.params off = some g) (hcmd : g ≠ .reg .cmd) (hstatus : g ≠ .reg .status)
    (hstore : ∀ s, storeTarget v g s = s) : step s = .next { s with events := es } := by
  cases hb : s.status.busy
  · exact (step_write_store he hg hb hcmd hstatus).trans (congrArg Outcome.next (hstore _))
  · exact step_write_busy he hg hb hcmd hstatus

/-- A write of STATUS clears its flags at any time (20_memory.md R66). -/
theorem step_statusWrite (he : s.events = .access (.write 0x004 4 v) :: es) :
    step s = .next ({ s with events := es }.writeStatus v) :=
  step_write he (target?_of_reg .status rfl)

theorem submitWord_busy {run : Instr → State → Outcome State Fault Refusal} (hb : s.status.busy = true) :
    submitWord run v s = .next (s.raiseErr .cmdBusy) := if_pos hb

/-- Settles O14: each offset reaches its target, whose write is a submission, an acknowledgement, a store or ignored. -/
theorem writeEffects : Obligations.WriteEffects := by
  intro s es off v he
  have hstore (hb : s.status.busy = false) (r : Reg) (hcmd : Target.reg r ≠ .reg .cmd)
      (hstatus : Target.reg r ≠ .reg .status) (hoff : off = r.offset) :=
    step_write_store he (target?_of_reg r hoff) hb hcmd hstatus
  have hbusy (hb : s.status.busy = true) (r : Reg) (hcmd : Target.reg r ≠ .reg .cmd)
      (hstatus : Target.reg r ≠ .reg .status) (hoff : off = r.offset) :=
    step_write_busy he (target?_of_reg r hoff) hb hcmd hstatus
  have hreadOnly (r : Reg) (hcmd : Target.reg r ≠ .reg .cmd) (hstatus : Target.reg r ≠ .reg .status)
      (hr : ∀ s, storeTarget v (.reg r) s = s) (hoff : off = r.offset) :=
    step_write_readOnly he (target?_of_reg r hoff) hcmd hstatus hr
  refine ⟨fun hoff => step_cmdWrite (hoff ▸ he), fun hoff hb => ?_, fun hoff => step_statusWrite (hoff ▸ he),
    fun hb => ?_, fun hb hoff => ?_, fun hoff => ?_⟩
  · exact (step_cmdWrite (hoff ▸ he)).trans (submitWord_busy hb)
  · refine ⟨hstore hb .payload nofun nofun, hstore hb .addr nofun nofun, hstore hb .func nofun nofun,
      hstore hb .startPos nofun nofun, hstore hb .textLen nofun nofun, hstore hb .bitRate nofun nofun,
      hstore hb .invert nofun nofun, hstore hb .wordCount nofun nofun, fun k hk hoff => ?_, fun k hk hoff => ?_⟩
    · exact ⟨_, step_write_store he (target?_of_text hk hoff) hb nofun nofun,
        fun j => s.textEntry_setText k j (v.extractLsb' 0 8), fun j => s.wordEntry_setText k j (v.extractLsb' 0 8)⟩
    · exact ⟨_, step_write_store he (target?_of_word hk hoff) hb nofun nofun,
        fun j => s.wordEntry_setWord k j v, fun j => s.textEntry_setWord k j v⟩
  · rcases hoff with hoff | hoff | hoff | hoff | hoff | hoff | hoff | hoff | ⟨k, hk, hoff | hoff⟩
    · exact hbusy hb .payload nofun nofun hoff
    · exact hbusy hb .addr nofun nofun hoff
    · exact hbusy hb .func nofun nofun hoff
    · exact hbusy hb .startPos nofun nofun hoff
    · exact hbusy hb .textLen nofun nofun hoff
    · exact hbusy hb .bitRate nofun nofun hoff
    · exact hbusy hb .invert nofun nofun hoff
    · exact hbusy hb .wordCount nofun nofun hoff
    · exact step_write_busy he (target?_of_text hk hoff) hb nofun nofun
    · exact step_write_busy he (target?_of_word hk hoff) hb nofun nofun
  · rcases hoff with hoff | hoff | hoff | hoff | hoff
    · exact hreadOnly .result nofun nofun (fun _ => rfl) hoff
    · exact hreadOnly .slotOffset nofun nofun (fun _ => rfl) hoff
    · exact hreadOnly .position nofun nofun (fun _ => rfl) hoff
    · exact hreadOnly .sampleCount nofun nofun (fun _ => rfl) hoff
    · exact hreadOnly .info nofun nofun (fun _ => rfl) hoff

/-- Bit 1 clears DONE, bit 2 ERR and ERRCODE, and the rest stays. -/
theorem Status.writeOneToClear_eq (v : Word) (st : Status) : st.writeOneToClear v = { st with
    done := if v.getLsbD 1 then false else st.done
    err := if v.getLsbD 2 then false else st.err
    errCode := if v.getLsbD 2 then .none else st.errCode } := by
  unfold Status.writeOneToClear
  cases v.getLsbD 1 <;> cases v.getLsbD 2 <;> simp

/-- Settles O8: the step is the acknowledgement, which changes STATUS alone. -/
theorem statusWriteOneToClear : Obligations.StatusWriteOneToClear := by
  intro s es v he
  rw [step_statusWrite he, State.writeStatus, Status.writeOneToClear_eq]

/-! ## The sink's stream -/

/-- Settles O45: a running MODULATE adds at most one operation, and every other step leaves the stream alone. -/
theorem sinkStreamOnlyGrows : Obligations.SinkStreamOnlyGrows := by
  intro s t h
  rcases step_cases h with ⟨es, -, rfl⟩ | ⟨i, es, hb, hop, he⟩ | ⟨es, rfl⟩ | ⟨es, v, rfl⟩ | ⟨es, c, rfl⟩ |
    ⟨es, l, d, rfl⟩ | ⟨i, es, hb, he⟩ | ⟨es, -, -, v, g, -, -, -, rfl⟩
  · exact .inl rfl
  · rcases exec_running_cases (s := { s with events := es }) hb hop he with
      ⟨-, -, -, _, _, _, _, _, _, _, rfl, -⟩ | ⟨rfl, _, _, _, _, _, _, _, lg, rfl, hlog | ⟨o, hlog, hm⟩⟩
    · exact .inl rfl
    · exact .inl hlog
    · exact .inr ⟨o, hlog, hb, hop, hm⟩
  · exact .inl rfl
  · exact .inl rfl
  · exact .inl rfl
  · exact .inl rfl
  · obtain ⟨_, _, _, _, _, rfl⟩ := exec_submit_cases (s := { s with events := es }) hb he
    exact .inl rfl
  · obtain ⟨_, _, _, _, _, _, _, _, _, hstore⟩ := storeTarget_frame v g { s with events := es }
    rw [hstore]
    exact .inl rfl

end Sys2Proof.Machine

/-!
PROOFS of the encoding family (30_encoding.md): which words the decoder reads as commands (R92, R101), that decode and encode
agree (R91, R92), and the constant words with their fields (R95, R98).
-/

namespace Sys2Proof.Machine

/-! ## The words of the commands -/

/-- The one word of each command (30_encoding.md R101). -/
theorem decode_eq_command_iff (v : Word) (i : Instr) : decode v = .command i ↔ v = encode i := by
  refine ⟨fun h => ?_, fun h => h ▸ decode_encode i⟩
  unfold decode at h
  split_ifs at h with hcw haddr hpack hasm hmod hrsv <;> cases h
  exacts [hcw, haddr, hpack, hasm, hmod]

/-- The decoder is total: a word is illegal where it is no command's word. -/
theorem decode_eq_illegal_iff (v : Word) : (∃ why, decode v = .illegal why) ↔ ∀ i, v ≠ encode i := by
  simp only [ne_eq, ← decode_eq_command_iff]
  cases decode v with
  | command i => simp
  | illegal why => simp

theorem Instr.forall_iff {P : Instr → Prop} :
    (∀ i, P i) ↔ P .encCw ∧ P .encAddr ∧ P .packText ∧ P .assemble ∧ P .modulate := by
  refine ⟨fun h => ⟨h _, h _, h _, h _, h _⟩, fun ⟨hcw, haddr, hpack, hasm, hmod⟩ i => ?_⟩
  cases i
  exacts [hcw, haddr, hpack, hasm, hmod]

/-- A word is its two fields (30_encoding.md R91). -/
theorem rsvField_append_opField (v : Word) : rsvField v ++ opField v = v :=
  BitVec.extractLsb'_append_extractLsb' (w := 28) (len := 4)

/-- A command's word in terms of the fields (30_encoding.md R92). -/
theorem eq_encode_iff (v : Word) (i : Instr) : v = encode i ↔ rsvField v = 0#28 ∧ opField v = i.opcode := by
  obtain ⟨-, hrsv, hop, -⟩ := commandWord i
  refine ⟨fun h => h ▸ ⟨hrsv, hop⟩, fun ⟨hv, hi⟩ => ?_⟩
  rw [← rsvField_append_opField v, hv, hi, encode]

/-- The opcodes in use (30_encoding.md R92). -/
theorem exists_opcode_eq_iff (o : BitVec 4) : (∃ i : Instr, o = i.opcode) ↔ 1 ≤ o.toNat ∧ o.toNat ≤ 5 := by
  constructor
  · rintro ⟨i, rfl⟩
    obtain ⟨-, -, -, hlow, hhigh, -⟩ := commandWord i
    exact ⟨hlow, hhigh⟩
  · rintro ⟨hlow, hhigh⟩
    have hcases : o.toNat = 1 ∨ o.toNat = 2 ∨ o.toNat = 3 ∨ o.toNat = 4 ∨ o.toNat = 5 := by omega
    rcases hcases with h | h | h | h | h
    exacts [⟨.encCw, BitVec.eq_of_toNat_eq h⟩, ⟨.encAddr, BitVec.eq_of_toNat_eq h⟩,
      ⟨.packText, BitVec.eq_of_toNat_eq h⟩, ⟨.assemble, BitVec.eq_of_toNat_eq h⟩,
      ⟨.modulate, BitVec.eq_of_toNat_eq h⟩]

/-- Settles O2: a word decodes to a command where it is a command's word, which its two fields say. -/
theorem legalCommandWords : Obligations.LegalCommandWords := by
  refine ⟨fun v => ?_, decode_encode, rfl, rfl, rfl, rfl, rfl⟩
  calc (∃ i, decode v = .command i)
    _ ↔ ∃ i, rsvField v = 0#28 ∧ opField v = Instr.opcode i := by simp only [decode_eq_command_iff, eq_encode_iff]
    _ ↔ rsvField v = 0#28 ∧ 1 ≤ (opField v).toNat ∧ (opField v).toNat ≤ 5 := by
      rw [exists_and_left, exists_opcode_eq_iff]

/-- Settles O1: each command has the one word it encodes to, and a word that is none of the five is illegal. -/
theorem decoderReadsFiveWords : Obligations.DecoderReadsFiveWords := by
  intro v
  exact ⟨decode_eq_command_iff v .encCw, decode_eq_command_iff v .encAddr, decode_eq_command_iff v .packText,
    decode_eq_command_iff v .assemble, decode_eq_command_iff v .modulate,
    (decode_eq_illegal_iff v).trans Instr.forall_iff⟩

/-- The table's numbering of a 32-bit word is the word's own value. -/
theorem decodeTableWord_toNat {v : Word} {i : Instr} (h : decode v = .command i) :
    decodeTableWord 32 v.toNat = some i := by
  have hv : v.toNat % 2 ^ 32 = v.toNat := Nat.mod_eq_of_lt v.isLt
  rw [decodeTableWord, hv, if_pos v.isLt, BitVec.ofNat_toNat, BitVec.setWidth_eq, h]

/-- Settles O3: the word a command encodes to is the one word that decodes to it. -/
theorem decodeEncodeAgree : Obligations.DecodeEncodeAgree :=
  ⟨fun i _ => ⟨decode_encode i, decodeTableWord_toNat (decode_encode i)⟩,
    fun v i h => ((decode_eq_command_iff v i).1 h).symm⟩

/-! ## The constant words -/

/-- The fields FLAG, DATA, CRC and P of a codeword (30_encoding.md R95). -/
theorem codeword_fields (p : Payload) (c : BitVec 10) (x : Bool) :
    (codeword p c x).getLsbD 31 = p.getLsbD 20 ∧ (codeword p c x).extractLsb' 11 20 = p.extractLsb' 0 20 ∧
    (codeword p c x).extractLsb' 1 10 = c ∧ (codeword p c x).getLsbD 0 = x := by
  refine ⟨getLsbD_codeword p c x 31, ?_, ?_, getLsbD_codeword p c x 0⟩
  · ext k hk
    rw [BitVec.getElem_extractLsb', BitVec.getElem_extractLsb', getLsbD_codeword, if_neg (by omega),
      if_neg (by omega), Nat.add_sub_cancel_left, Nat.zero_add]
  · ext k hk
    rw [BitVec.getElem_extractLsb', getLsbD_codeword, if_neg (by omega), if_pos (by omega), Nat.add_sub_cancel_left,
      BitVec.getLsbD_eq_getElem hk]

/-- ENCODE from its payload, CRC and parity (40_codeword.md R126). -/
theorem encodeCw_eq_codeword {arg : Word} {p : Payload} {c : BitVec 10} {x : Bool} (hp : payloadOf arg = p)
    (hc : crcOf p = c) (hx : parityOf (p ++ c) = x) : encodeCw arg = codeword p c x := by
  subst hp hc hx
  rfl

/-- Settles O23: the CRC and the parity of each payload are computed, and a word's fields are those of the codeword it is
written as (PREAMBLE's CRC field is not its payload's CRC, 0x38D). -/
theorem constantWords : Obligations.ConstantWords := by
  refine ⟨rfl, rfl, rfl, codeword_fields 0x155555#21 0x155#10 false, codeword_fields 0x0F9A42#21 0x2EC#10 false,
    codeword_fields 0x0F5138#21 0x0CB#10 true, ?_, ?_, ?_⟩
  · exact encodeCw_eq_codeword (p := 0x155555#21) (c := 0x38D#10) (x := true) rfl (by decide +kernel) (by decide)
  · exact encodeCw_eq_codeword (p := 0x0F9A42#21) (c := 0x2EC#10) (x := false) rfl (by decide +kernel) (by decide)
  · exact encodeCw_eq_codeword (p := 0x0F5138#21) (c := 0x0CB#10) (x := true) rfl (by decide +kernel) (by decide)

end Sys2Proof.Machine

/-!
PROOFS of the codeword family (40_codeword.md): the division and what it leaves (R122, R123), the codeword's fields (R125),
the laws of ENCODE (R127), and ENC_CW (R128).
-/

namespace Sys2Proof.Machine

/-! ## The division -/

/-- The first `n` steps clear the top `n` bits (40_codeword.md R123). -/
theorem foldl_crcStep_clears (r : BitVec 31) {n : Nat} (hn : n ≤ 21) :
    ∀ j, 31 - n ≤ j → ((List.range n).foldl crcStep r).getLsbD j = false := by
  induction n with
  | zero => exact fun j hj => BitVec.getLsbD_of_ge _ j hj
  | succ n ih =>
    intro j hj
    rw [List.range_succ, List.foldl_append]
    exact crcStep_clears (by omega) (ih (by omega)) j (by omega)

/-- After the 21 steps the register holds nothing above the CRC (40_codeword.md R123). -/
theorem getLsbD_crcDivide (p : Payload) (j : Nat) : (crcDivide (crcStart p)).getLsbD j = (crcOf p).getLsbD j := by
  rw [crcOf, BitVec.getLsbD_extractLsb', Nat.zero_add]
  by_cases hj : j < 10
  · simp [hj]
  · have hclear : (crcDivide (crcStart p)).getLsbD j = false := foldl_crcStep_clears (crcStart p) le_rfl j (by omega)
    simp [hj, hclear]

/-- Settles O17: bit `10 + k` is among the 21 bits the 21 steps clear. -/
theorem crcDivisionClearsTopBits : Obligations.CrcDivisionClearsTopBits := by
  refine fun p => ⟨?_, rfl⟩
  ext k hk
  rw [BitVec.getElem_extractLsb', getLsbD_crcDivide, BitVec.getLsbD_of_ge _ _ (by omega), BitVec.getElem_zero]

/-! ## The codeword's fields and parity -/

/-- Bits 31:11 of a codeword are its payload (40_codeword.md R125). -/
theorem codeword_payload (p : Payload) (c : BitVec 10) (x : Bool) : (codeword p c x).extractLsb' 11 21 = p := by
  ext k hk
  rw [BitVec.getElem_extractLsb', getLsbD_codeword, if_neg (by omega), if_neg (by omega), Nat.add_sub_cancel_left,
    BitVec.getLsbD_eq_getElem hk]

/-- Settles O18: ENCODE concatenates the masked payload, the CRC and the parity, which is the population count's. -/
theorem codewordFields : Obligations.CodewordFields := by
  intro a
  rw [← payloadOf_eq, ← parityOf_eq]
  obtain ⟨-, -, hcrc, hparity⟩ := codeword_fields (payloadOf a) (crcOf (payloadOf a))
    (parityOf (payloadOf a ++ crcOf (payloadOf a)))
  exact ⟨codeword_payload _ _ _, hcrc, hparity⟩

/-- Settles O19: the parity bit adds 1 exactly when the other 31 bits count odd. -/
theorem codewordParityEven : Obligations.CodewordParityEven := by
  intro a
  rw [encodeCw, popcount_codeword, parityOf_eq]
  rcases Nat.mod_two_eq_zero_or_one (popcount (payloadOf a ++ crcOf (payloadOf a))) with h | h
  · simp [h]
  · simp [h, Nat.add_mod]

/-! ## Linearity -/

theorem crcOf_xor (p q : Payload) : crcOf (p ^^^ q) = crcOf p ^^^ crcOf q := by
  rw [crcOf, crcStart_xor, crcDivide, foldl_crcStep_xor, BitVec.extractLsb'_xor]
  rfl

/-- ENCODE is linear over GF(2) (40_codeword.md R127 item 4). -/
theorem encodeCw_xor (a b : Word) : encodeCw (a ^^^ b) = encodeCw a ^^^ encodeCw b := by
  rw [encodeCw, payloadOf_xor, crcOf_xor, ← BitVec.xor_append, parityOf_xor, codeword_xor]
  rfl

@[simp] theorem encodeCw_zero : encodeCw 0#32 = 0#32 :=
  calc encodeCw (0#32 ^^^ 0#32)
    _ = encodeCw 0#32 ^^^ encodeCw 0#32 := encodeCw_xor _ _
    _ = 0#32 := BitVec.xor_self

/-- ENCODE reads the payload bits alone (40_codeword.md R120). -/
theorem encodeCw_congr {a b : Word} (h : a.extractLsb' 0 21 = b.extractLsb' 0 21) : encodeCw a = encodeCw b := by
  simp only [encodeCw, payloadOf_eq, h]

/-- The low `n` bits of a word, as a word. -/
def lowBits (n : Nat) (a : Word) : Word := (a.setWidth n).setWidth 32

theorem getLsbD_lowBits (n : Nat) (a : Word) (j : Nat) :
    (lowBits n a).getLsbD j = (decide (j < n) && a.getLsbD j) := by
  rw [lowBits, BitVec.getLsbD_setWidth, BitVec.getLsbD_setWidth]
  by_cases hj : j < 32
  · simp [hj]
  · simp [BitVec.getLsbD_of_ge a j (by omega)]

theorem lowBits_succ (n : Nat) (a : Word) :
    lowBits (n + 1) a = if a.getLsbD n then lowBits n a ^^^ 1#32 <<< n else lowBits n a := by
  ext j hj
  have hunit : (1#32 <<< n).getLsbD j = (decide (n < 32) && decide (n = j)) := BitVec.getLsbD_twoPow n j
  rw [← BitVec.getLsbD_eq_getElem, ← BitVec.getLsbD_eq_getElem, apply_ite (BitVec.getLsbD · j), BitVec.getLsbD_xor,
    hunit, getLsbD_lowBits, getLsbD_lowBits]
  rcases lt_trichotomy j n with h | rfl | h
  · simp [h, h.ne', h.le]
  · cases a.getLsbD j <;> simp [hj]
  · simp [h.ne, h.not_gt, h.not_ge]

/-- The fold over the unit codewords of the low `n` bits is their codeword. -/
theorem foldl_unitCodewords (a : Word) (n : Nat) :
    (List.range n).foldl (fun w k => if a.getLsbD k then w ^^^ encodeCw (1#32 <<< k) else w) 0#32 =
      encodeCw (lowBits n a) := by
  induction n with
  | zero => rw [lowBits, BitVec.of_length_zero (x := a.setWidth 0)]; exact encodeCw_zero.symm
  | succ n ih =>
    rw [List.range_succ, List.foldl_append, ih, lowBits_succ]
    cases h : a.getLsbD n
    · simp [h]
    · simp [h, encodeCw_xor]

/-- Settles O20: linearity gives the fold over the unit codewords, and the payload's 21 bits are all that ENCODE reads. -/
theorem codewordLinear : Obligations.CodewordLinear := by
  refine ⟨encodeCw_xor, encodeCw_zero, fun a => ?_⟩
  rw [foldl_unitCodewords]
  refine encodeCw_congr ?_
  ext k hk
  simp [getLsbD_lowBits, hk]

/-! ## The CRC as a polynomial remainder -/

section
open Polynomial

theorem coeff_gf2Poly {n : Nat} (v : BitVec n) (j : Nat) : (gf2Poly v).coeff j = if v.getLsbD j then 1 else 0 := by
  have hterm (i : Nat) : (if v.getLsbD i then X ^ i else 0 : (ZMod 2)[X]).coeff j =
      if i = j then (if v.getLsbD j then 1 else 0) else 0 := by
    rw [apply_ite (coeff · j), coeff_X_pow, coeff_zero]
    by_cases h : i = j
    · simp [h]
    · simp [h, Ne.symm h]
  simp only [gf2Poly, finsetSum_coeff, hterm, Finset.sum_ite_eq', Finset.mem_range]
  by_cases hj : j < n
  · simp [hj]
  · simp [hj, BitVec.getLsbD_of_ge v j (by omega)]

/-- Vectors with the same bits have the same polynomial, whatever their widths. -/
theorem gf2Poly_congr {n m : Nat} {v : BitVec n} {w : BitVec m} (h : ∀ j, v.getLsbD j = w.getLsbD j) :
    gf2Poly v = gf2Poly w := by
  ext j
  rw [coeff_gf2Poly, coeff_gf2Poly, h]

theorem degree_gf2Poly_lt {n : Nat} (v : BitVec n) : (gf2Poly v).degree < n := by
  rw [degree_lt_iff_coeff_zero]
  intro j hj
  rw [coeff_gf2Poly, BitVec.getLsbD_of_ge v j hj, if_neg Bool.false_ne_true]

/-- The generator's polynomial (40_codeword.md R127 item 3). -/
theorem gf2Poly_gen : gf2Poly gen = (X ^ 10 + X ^ 9 + X ^ 8 + X ^ 6 + X ^ 5 + X ^ 3 + 1 : (ZMod 2)[X]) := by
  have hbits : gf2Poly gen = (1 + X ^ 3 + X ^ 5 + X ^ 6 + X ^ 8 + X ^ 9 + X ^ 10 : (ZMod 2)[X]) := by
    simp [gf2Poly, gen, Finset.sum_range_succ]
  rw [hbits]
  ring

theorem degree_gf2Poly_gen : (gf2Poly gen).degree = 10 := by
  have hlead : (gf2Poly gen).coeff 10 ≠ 0 := by rw [coeff_gf2Poly]; decide
  exact le_antisymm (Order.le_of_lt_succ (degree_gf2Poly_lt gen)) (le_degree_of_ne_zero hlead)

theorem monic_gf2Poly_gen : (gf2Poly gen).Monic := by
  refine monic_of_degree_le 10 degree_gf2Poly_gen.le ?_
  rw [coeff_gf2Poly]; decide

/-- The register starts as the payload's polynomial times `x^10` (40_codeword.md R121). -/
theorem gf2Poly_crcStart (p : Payload) : gf2Poly (crcStart p) = gf2Poly p * X ^ 10 := by
  ext j
  rw [coeff_gf2Poly, coeff_mul_X_pow', coeff_gf2Poly, crcStart, BitVec.getLsbD_shiftLeft, BitVec.getLsbD_setWidth]
  by_cases hlow : j < 10
  · simp [hlow]
  · by_cases hj : j < 31
    · simp [hlow, hj, show 10 ≤ j by omega, show j - 10 < 31 by omega]
    · simp [hj, BitVec.getLsbD_of_ge p (j - 10) (by omega)]

/-- A division step takes away a multiple of the generator, so it keeps the remainder (40_codeword.md R122). -/
theorem gf2Poly_crcStep_modByMonic (r : BitVec 31) (i : Nat) :
    gf2Poly (crcStep r i) %ₘ gf2Poly gen = gf2Poly r %ₘ gf2Poly gen := by
  unfold crcStep
  split
  · rw [gf2Poly_xor, gf2Poly_gen_shift _ (Nat.sub_le 20 i), add_modByMonic,
      (modByMonic_eq_zero_iff_dvd monic_gf2Poly_gen).2 (dvd_mul_right _ _), add_zero]
  · rfl

theorem gf2Poly_foldl_crcStep_modByMonic (l : List Nat) (r : BitVec 31) :
    gf2Poly (l.foldl crcStep r) %ₘ gf2Poly gen = gf2Poly r %ₘ gf2Poly gen := by
  induction l generalizing r with
  | nil => rfl
  | cons i l ih => rw [List.foldl_cons, ih, gf2Poly_crcStep_modByMonic]

/-- Settles O21: every step keeps the remainder by the generator, and what is left after the last step, the CRC, has a
degree below the generator's, so it is its own remainder. -/
theorem crcIsPolynomialRemainder : Obligations.CrcIsPolynomialRemainder := by
  refine ⟨gf2Poly_gen, monic_gf2Poly_gen, fun p => ?_⟩
  have hdegree : (gf2Poly (crcOf p)).degree < (gf2Poly gen).degree := by
    rw [degree_gf2Poly_gen]
    exact degree_gf2Poly_lt (crcOf p)
  calc gf2Poly (crcOf p)
    _ = gf2Poly (crcOf p) %ₘ gf2Poly gen := ((modByMonic_eq_self_iff monic_gf2Poly_gen).2 hdegree).symm
    _ = gf2Poly (crcDivide (crcStart p)) %ₘ gf2Poly gen := by rw [gf2Poly_congr (getLsbD_crcDivide p)]
    _ = gf2Poly (crcStart p) %ₘ gf2Poly gen := gf2Poly_foldl_crcStep_modByMonic _ _
    _ = (gf2Poly p * X ^ 10) %ₘ gf2Poly gen := by rw [gf2Poly_crcStart]

end

/-! ## Codewords and payloads -/

theorem encodeCw_eq_iff (a b : Word) : encodeCw a = encodeCw b ↔ a.extractLsb' 0 21 = b.extractLsb' 0 21 := by
  refine ⟨fun h => ?_, encodeCw_congr⟩
  obtain ⟨ha, -, -⟩ := codewordFields a
  obtain ⟨hb, -, -⟩ := codewordFields b
  rw [← ha, h, hb]

/-- A codeword is the codeword of its own payload field (40_codeword.md R127 item 5). -/
theorem encodeCw_ushiftRight_iff (w : Word) : encodeCw (w >>> 11) = w ↔ ∃ a, encodeCw a = w := by
  refine ⟨fun h => ⟨_, h⟩, ?_⟩
  rintro ⟨a, rfl⟩
  obtain ⟨hpayload, -, -⟩ := codewordFields a
  refine encodeCw_congr ?_
  rw [← hpayload]
  ext k hk
  simp

/-- Settles O22: the payload is a field of the codeword, and the three constant words' payloads have the codewords that
30_encoding.md R98 gives. -/
theorem codewordsByPayload : Obligations.CodewordsByPayload := by
  obtain ⟨-, -, -, -, -, -, hpreamble, hsync, hidle⟩ := constantWords
  refine ⟨encodeCw_eq_iff, encodeCw_ushiftRight_iff, (encodeCw_ushiftRight_iff _).2 ⟨_, hsync⟩,
    (encodeCw_ushiftRight_iff _).2 ⟨_, hidle⟩, ?_⟩
  have hpayload : preambleWord >>> 11 = 0x155555#32 := by decide
  rw [hpayload, hpreamble]
  decide

/-! ## ENC_CW -/

/-- The core step of the running command (60_exceptions.md R213). -/
theorem exec_running {i : Instr} {s : State} (hb : s.status.busy = true) (hop : s.curOp = some i) :
    exec i s = commandCore Config.params i s := by
  rw [exec_eq_execWith, execWith_eq_perform, perform_running (State.running_iff.2 ⟨hb, hop⟩)]

/-- Submitting a command to an idle block where its check passes accepts it (60_exceptions.md R213). -/
theorem exec_accepted {i : Instr} {s : State} (hb : s.status.busy = false)
    (hc : commandCheck Config.params i s = none) : exec i s = .next (commandStart Config.params i (s.accept i)) := by
  have hidle : s.running i = false := by simp [State.running, hb]
  rw [exec_eq_execWith, execWith_eq_perform, perform_not_running hidle, submit_accepted hb hc]

/-- A CMD write of a command's word at an idle block where its check passes: the acceptance of 60_exceptions.md R213. -/
theorem step_cmdWrite_accepted {i : Instr} {s : State} {es : List Event} {v : Word}
    (he : s.events = .access (.write 0x000 4 v) :: es) (hv : decode v = .command i) (hb : s.status.busy = false)
    (hc : commandCheck Config.params i { s with events := es } = none) :
    step s = .next (commandStart Config.params i ({ s with events := es }.accept i)) :=
  (submittedCommandRuns.1 s es v i he hb hv).trans (exec_accepted hb hc)

/-- A CMD write while a command runs is refused (60_exceptions.md R213). -/
theorem step_cmdWrite_busy {s : State} {es : List Event} {v : Word} (he : s.events = .access (.write 0x000 4 v) :: es)
    (hb : s.status.busy = true) : step s = .next ({ s with events := es }.raiseErr .cmdBusy) :=
  (step_cmdWrite he).trans (submitWord_busy hb)

theorem encodeCw_mask (a : Word) : encodeCw a = encodeCw (a &&& 0x1FFFFF#32) := by
  simp only [encodeCw, payloadOf, BitVec.and_assoc, BitVec.and_self]

/-- Settles O24: the write of CMD is the shared acceptance or its CMD_BUSY, the core step is ENCODE and completion, and the
corner cases are the masked payloads' codewords. -/
theorem encCwCommand : Obligations.EncCwCommand := by
  have hones : encodeCw 0x001FFFFF#32 = 0xFFFFFFFF#32 := by decide +kernel
  refine ⟨fun s es he => ⟨fun hb => step_cmdWrite_accepted he (decode_encode .encCw) hb rfl, step_cmdWrite_busy he⟩,
    fun s hb hop => ⟨_, _, exec_running hb hop⟩, encodeCw_mask, encodeCw_zero, (encodeCw_mask _).trans encodeCw_zero,
    (encodeCw_mask _).trans hones, hones, ?_, ?_, ?_, ?_⟩
  all_goals decide +kernel

end Sys2Proof.Machine

/-!
PROOFS of the address family (41_address.md): the payload of an address codeword as its fields (R140), what
ENCODE_ADDRESS reads of its arguments (R143), and ENC_ADDR (R144).
-/

namespace Sys2Proof.Machine

/-! ## Masks of low bits -/

/-- A mask of `n` ones keeps the low `n` bits. -/
theorem and_ones_eq_lowBits (n : Nat) (a : Word) : a &&& BitVec.ofNat 32 (2 ^ n - 1) = lowBits n a := by
  ext j hj
  rw [← BitVec.getLsbD_eq_getElem, ← BitVec.getLsbD_eq_getElem, getLsbD_lowBits, BitVec.getLsbD_and,
    BitVec.getLsbD_ofNat, Nat.testBit_two_pow_sub_one, decide_eq_true hj, Bool.true_and, Bool.and_comm]

/-- Cutting a word to `n` bits keeps every field below bit `n`. -/
theorem extractLsb'_lowBits {n start len : Nat} (h : start + len ≤ n) (a : Word) :
    (lowBits n a).extractLsb' start len = a.extractLsb' start len := by
  ext k hk
  rw [BitVec.getElem_extractLsb', BitVec.getElem_extractLsb', getLsbD_lowBits, decide_eq_true (by omega),
    Bool.true_and]

/-! ## The payload of an address codeword -/

/-- The bits of the payload: two of the function code, then the address from bit 3 (41_address.md R140). -/
theorem getLsbD_addressPayload (a f : Word) (k : Nat) :
    (addressPayload a f).getLsbD k = (decide (k < 20) && if k < 2 then f.getLsbD k else a.getLsbD (k + 1)) := by
  have hmask : addressPayload a f = lowBits 20 (a >>> 3 <<< 2 ||| lowBits 2 f) := by
    rw [← and_ones_eq_lowBits, ← and_ones_eq_lowBits]
    exact BitVec.zero_or
  rw [hmask, getLsbD_lowBits, BitVec.getLsbD_or, getLsbD_lowBits, BitVec.getLsbD_shiftLeft, BitVec.getLsbD_ushiftRight]
  by_cases hk : k < 20
  · by_cases hlow : k < 2
    · simp [hlow]
    · simp [hlow, show k < 32 by omega, show 3 + (k - 2) = k + 1 by omega]
  · simp [hk]

/-- The payload is the flag 0, `A[20:3]` and `F[1:0]` (41_address.md R140). -/
theorem payloadOf_addressPayload (a f : Word) :
    payloadOf (addressPayload a f) = 0#1 ++ a.extractLsb' 3 18 ++ f.extractLsb' 0 2 := by
  rw [payloadOf_eq]
  refine BitVec.eq_of_getLsbD_eq fun k hk => ?_
  rw [BitVec.getLsbD_extractLsb', Nat.zero_add, getLsbD_addressPayload, BitVec.getLsbD_append, BitVec.getLsbD_append,
    BitVec.getLsbD_extractLsb', BitVec.getLsbD_extractLsb', Nat.zero_add]
  by_cases hlow : k < 2
  · simp [hlow, hk, show k < 20 by omega]
  · by_cases haddr : k < 20
    · simp [hlow, hk, haddr, show k - 2 < 18 by omega, show 3 + (k - 2) = k + 1 by omega]
    · simp [hlow, haddr, show ¬ k - 2 < 18 by omega]

/-! ## ENCODE_ADDRESS -/

/-- A codeword's field above the CRC is a field of the payload (40_codeword.md R125). -/
theorem extractLsb'_codeword (p : Payload) (c : BitVec 10) (x : Bool) (start len : Nat) :
    (codeword p c x).extractLsb' (11 + start) len = p.extractLsb' start len := by
  rw [codeword, BitVec.extractLsb'_append_eq_of_le (by omega), BitVec.extractLsb'_append_eq_of_le (by omega)]
  congr 1
  omega

/-- The address codeword is that of the payload `0 ++ A[20:3] ++ F[1:0]`. -/
theorem exists_encodeAddress_eq_codeword (a f : Word) :
    ∃ c x, (encodeAddress a f).1 = codeword (0#1 ++ a.extractLsb' 3 18 ++ f.extractLsb' 0 2) c x := by
  rw [← payloadOf_addressPayload]
  exact ⟨_, _, rfl⟩

/-- The codeword reads `A[20:3]` and `F[1:0]` alone (41_address.md R143 item 3). -/
theorem encodeAddress_fst_congr {a b f g : Word} (ha : a.extractLsb' 3 18 = b.extractLsb' 3 18)
    (hf : f.extractLsb' 0 2 = g.extractLsb' 0 2) : (encodeAddress a f).1 = (encodeAddress b g).1 := by
  apply encodeCw_congr
  rw [← payloadOf_eq, ← payloadOf_eq, payloadOf_addressPayload, payloadOf_addressPayload, ha, hf]

/-- The slot offset reads `A[2:0]` alone (41_address.md R143 item 1). -/
theorem encodeAddress_snd_congr {a b f g : Word} (ha : a.extractLsb' 0 3 = b.extractLsb' 0 3) :
    (encodeAddress a f).2 = (encodeAddress b g).2 :=
  congrArg (fun slot : BitVec 3 => slot.setWidth 4 * 2#4) ha

/-- The slot offset is twice the slot, without overflow (41_address.md R141). -/
theorem encodeAddress_offset_toNat (a f : Word) : (encodeAddress a f).2.toNat = 2 * (a.toNat % 8) := by
  have hdouble : ∀ slot : BitVec 3, (slot.setWidth 4 * 2#4).toNat = 2 * slot.toNat := by decide
  calc (encodeAddress a f).2.toNat
    _ = 2 * (slotOf a).toNat := hdouble _
    _ = 2 * (a.toNat % 8) := by rw [slotOf, BitVec.extractLsb'_toNat, Nat.shiftRight_zero]

/-- The arguments are truncated to their operand fields (41_address.md R140). -/
theorem encodeAddress_mask (a f : Word) : encodeAddress a f = encodeAddress (a &&& 0x1FFFFF#32) (f &&& 0x3#32) := by
  have haddr : a &&& 0x1FFFFF#32 = lowBits 21 a := and_ones_eq_lowBits 21 a
  have hfunc : f &&& 0x3#32 = lowBits 2 f := and_ones_eq_lowBits 2 f
  rw [haddr, hfunc]
  exact Prod.ext
    (encodeAddress_fst_congr (extractLsb'_lowBits (by decide) a).symm (extractLsb'_lowBits (by decide) f).symm)
    (encodeAddress_snd_congr (extractLsb'_lowBits (by decide) a).symm)

theorem encodeAddress_zero : encodeAddress 0#32 0#32 = (0#32, 0#4) :=
  Prod.ext encodeCw_zero rfl

/-- Settles O25: the fields are those of the payload `0 ++ A[20:3] ++ F[1:0]`, which is all that the codeword reads. -/
theorem addressCodewordFields : Obligations.AddressCodewordFields := by
  refine ⟨fun a f => ?_, fun a b f hab => encodeAddress_fst_congr hab rfl, encodeAddress_zero⟩
  obtain ⟨c, x, hword⟩ := exists_encodeAddress_eq_codeword a f
  rw [hword]
  refine ⟨?_, ?_, ?_, encodeAddress_offset_toNat a f⟩
  · rw [getLsbD_codeword, BitVec.getLsbD_append, BitVec.getLsbD_append]
    rfl
  · rw [extractLsb'_codeword _ _ _ 2, BitVec.extractLsb'_append_eq_of_le le_rfl]
    exact BitVec.extractLsb'_append_eq_right
  · rw [extractLsb'_codeword _ _ _ 0]
    exact BitVec.extractLsb'_append_eq_right

/-! ## ENC_ADDR -/

/-- Settles O26: the write of CMD is the shared acceptance or its CMD_BUSY, the core step is ENCODE_ADDRESS and
completion, and address 1 has address 0's codeword. -/
theorem encAddrCommand : Obligations.EncAddrCommand := by
  have hword : (encodeAddress 1#32 0#32).1 = (encodeAddress 0#32 0#32).1 := encodeAddress_fst_congr (by decide) rfl
  have hone : encodeAddress 1#32 0#32 = (0x00000000#32, 2#4) :=
    Prod.ext (hword.trans (by rw [encodeAddress_zero])) rfl
  refine ⟨fun s es he => ⟨fun hb => step_cmdWrite_accepted he (decode_encode .encAddr) hb rfl, step_cmdWrite_busy he⟩,
    fun s hb hop => ⟨_, _, exec_running hb hop⟩, encodeAddress_mask, encodeAddress_zero, hone, ?_, ?_⟩
  all_goals decide +kernel

end Sys2Proof.Machine

/-!
PROOFS of the packer family (42_packer.md): the message codewords and the SYNC words that sending data words emits
(R155, R156), the data words a text is packed into (R153, R157, R158), and PACK_TEXT (R162).
-/

namespace Sys2Proof.Machine

/-! ## The message codeword of a data word -/

/-- The payload of a message codeword: FLAG_MSG in bit 20 and the data below it (42_packer.md R155). -/
theorem getLsbD_msgPayload (d : Data) (j : Nat) :
    (payloadOf (flagMsg ||| d.setWidth 32)).getLsbD j = if j = 20 then true else d.getLsbD j := by
  have hflag : flagMsg.getLsbD j = decide (20 = j) := BitVec.getLsbD_twoPow 20 j
  rw [payloadOf_eq, BitVec.getLsbD_extractLsb', Nat.zero_add, BitVec.getLsbD_or, hflag, BitVec.getLsbD_setWidth]
  rcases lt_trichotomy j 20 with h | rfl | h
  · simp [h.ne, h.ne', show j < 21 by omega, show j < 32 by omega]
  · simp
  · simp [h.ne', show ¬ j < 21 by omega, BitVec.getLsbD_of_ge d j h.le]

/-- The bits of a message codeword above its CRC (40_codeword.md R125). -/
theorem getLsbD_msgWord (d : Data) {j : Nat} (hj : 11 ≤ j) :
    (msgWord d).getLsbD j = if j = 31 then true else d.getLsbD (j - 11) := by
  rw [msgWord, encodeCw, getLsbD_codeword, if_neg (by omega), if_neg (by omega), getLsbD_msgPayload]
  simp only [show j - 11 = 20 ↔ j = 31 by omega]

theorem msgWord_flag (d : Data) : (msgWord d).getLsbD 31 = true := getLsbD_msgWord d (by decide)

/-- A word whose FLAG is 0, such as SYNC and IDLE, is no message codeword. -/
theorem msgWord_ne {w : Word} (hw : w.getLsbD 31 = false) (d : Data) : msgWord d ≠ w := by
  rintro rfl
  exact Bool.false_ne_true (hw.symm.trans (msgWord_flag d))

theorem msgWord_ne_syncWord (d : Data) : msgWord d ≠ syncWord := msgWord_ne (by decide) d

/-- A message codeword carries its data word (30_encoding.md R97). -/
theorem dataBits_msgWord (d : Data) : dataBits (msgWord d) = bitsOf d := by
  unfold dataBits bitsOf
  refine List.map_congr_left fun i hi => ?_
  have hlt := List.mem_range.1 hi
  rw [getLsbD_msgWord d (by omega), if_neg (by omega), show 30 - i - 11 = 19 - i by omega]

/-! ## The words that sending data words emits -/

theorem emitAll_snd (ds : List Data) : ∀ {s : Nat}, s < 16 → (emitAll s ds).2 = (s + ds.length) % 16 := by
  induction ds with
  | nil => exact fun hs => (Nat.mod_eq_of_lt hs).symm
  | cons d ds ih =>
    intro s hs
    unfold emitAll
    split
    · have := ih (s := 0) (by omega)
      simp only [List.length_cons]
      omega
    · have := ih (s := s + 1) (by omega)
      simp only [List.length_cons]
      omega

/-- Without the SYNC words the output is the message codewords in order. -/
theorem filter_emitAll (ds : List Data) : ∀ s, (emitAll s ds).1.filter (· ≠ syncWord) = ds.map msgWord := by
  induction ds with
  | nil => exact fun _ => rfl
  | cons d ds ih =>
    intro s
    unfold emitAll
    split
    · simp [msgWord_ne_syncWord, ← ih 0]
    · simp [msgWord_ne_syncWord, ← ih (s + 1)]

theorem exists_msgWord_of_mem_emitAll {s : Nat} {ds : List Data} {w : Word} (hw : w ∈ (emitAll s ds).1)
    (hsync : w ≠ syncWord) : ∃ d, msgWord d = w := by
  have hmem : w ∈ (emitAll s ds).1.filter (· ≠ syncWord) := List.mem_filter.2 ⟨hw, decide_eq_true hsync⟩
  rw [filter_emitAll] at hmem
  obtain ⟨d, -, rfl⟩ := List.mem_map.1 hmem
  exact ⟨d, rfl⟩

theorem count_syncWord_emitAll {s : Nat} (ds : List Data) (hs : s < 16) :
    (emitAll s ds).1.count syncWord = (s + ds.length) / 16 := by
  have hsplit := List.length_eq_countP_add_countP (· == syncWord) (l := (emitAll s ds).1)
  have hmsg : (emitAll s ds).1.countP (fun w => ¬ (w == syncWord) = true) = ds.length := by
    simpa [List.countP_eq_length_filter] using congrArg List.length (filter_emitAll ds s)
  rw [length_emitAll ds hs, hmsg] at hsplit
  rw [List.count]
  omega

/-- SYNC fills the 17th place of each batch (42_packer.md R156). -/
theorem getElem?_emitAll_eq_syncWord_iff (ds : List Data) : ∀ {s i : Nat}, s < 16 → i < (emitAll s ds).1.length →
    ((emitAll s ds).1[i]? = some syncWord ↔ (s + i + 1) % 17 = 0) := by
  induction ds with
  | nil => exact fun _ hi => absurd hi (Nat.not_lt_zero _)
  | cons d ds ih =>
    intro s i hs hi
    unfold emitAll at hi ⊢
    split at hi
    · next hfull =>
      rw [if_pos hfull]
      match i with
      | 0 => exact iff_of_false (fun h => msgWord_ne_syncWord d (Option.some.inj h)) (by omega)
      | 1 => exact iff_of_true rfl (by omega)
      | i + 2 =>
        simp only [List.length_cons, Nat.add_lt_add_iff_right] at hi
        simp only [List.getElem?_cons_succ, ih (s := 0) (by omega) hi]
        omega
    · next hfull =>
      rw [if_neg hfull]
      match i with
      | 0 => exact iff_of_false (fun h => msgWord_ne_syncWord d (Option.some.inj h)) (by omega)
      | i + 1 =>
        simp only [List.length_cons, Nat.add_lt_add_iff_right] at hi
        simp only [List.getElem?_cons_succ, ih (s := s + 1) (by omega) hi]
        omega

/-- The last word is SYNC where the last message codeword fills a batch. -/
theorem getLast?_emitAll_eq_syncWord_iff {s : Nat} (ds : List Data) (hs : s < 16) :
    (emitAll s ds).1.getLast? = some syncWord ↔ 1 ≤ ds.length ∧ (s + ds.length) % 16 = 0 := by
  have hlen := length_emitAll ds hs
  rw [List.getLast?_eq_getElem?]
  rcases Nat.eq_zero_or_pos ds.length with h | h
  · have hnil : (emitAll s ds).1 = [] := List.length_eq_zero_iff.1 (by omega)
    simp [hnil, h]
  · rw [getElem?_emitAll_eq_syncWord_iff ds hs (by omega), hlen]
    omega

/-! ## How much a text is packed into (42_packer.md R161) -/

/-- Settles O27: the packer sends `M` data words, whose message codewords are the output without its SYNC words; the rest
is counted through the batches. -/
theorem packCounts : Obligations.PackCounts := by
  intro al s chars hs
  have hlen := length_pack al chars hs
  obtain ⟨ds, hds, hpack⟩ := pack_eq_emitAll al s chars
  rw [hpack] at hlen ⊢
  rw [← hds] at hlen ⊢
  refine ⟨?_, count_syncWord_emitAll ds hs, hlen, emitAll_snd ds hs, getLast?_emitAll_eq_syncWord_iff ds hs,
    fun w hw hsync => ?_, fun hchars => ?_⟩
  · rw [filter_emitAll, List.length_map]
  · obtain ⟨d, rfl⟩ := exists_msgWord_of_mem_emitAll hw hsync
    exact ⟨msgWord_flag d, msgWord_ne (by decide) d⟩
  · rw [hlen, hds]
    unfold messageWords
    omega

/-- Settles O29: the place of SYNC is counted through the batches, and every other word is the codeword of a payload
with FLAG_MSG. -/
theorem packSyncPlacement : Obligations.PackSyncPlacement := by
  intro al s chars hs
  obtain ⟨ds, -, hpack⟩ := pack_eq_emitAll al s chars
  rw [hpack]
  refine ⟨fun i => getElem?_emitAll_eq_syncWord_iff ds hs, fun w hw => or_iff_not_imp_left.2 fun hsync => ?_⟩
  obtain ⟨d, rfl⟩ := exists_msgWord_of_mem_emitAll hw hsync
  exact ⟨msgWord_flag d, (encodeCw_ushiftRight_iff _).2 ⟨_, rfl⟩⟩

/-! ## The bits a text is packed into (42_packer.md R153, R158) -/

theorem length_bitsOf (d : Data) : (bitsOf d).length = 20 := by simp [bitsOf]

theorem getElem_bitsOf (d : Data) {i : Nat} (hi : i < (bitsOf d).length) : (bitsOf d)[i] = d.getLsbD (19 - i) := by
  simp [bitsOf]

/-- A shift drops the first `m` bits sent and appends `m` zeros. -/
theorem bitsOf_shiftLeft (d : Data) {m : Nat} (hm : m ≤ 20) :
    bitsOf (d <<< m) = (bitsOf d).drop m ++ List.replicate m false := by
  have hd := length_bitsOf d
  refine List.ext_getElem (by simp [length_bitsOf]; omega) fun i hi _ => ?_
  rw [length_bitsOf] at hi
  rw [getElem_bitsOf, BitVec.getLsbD_shiftLeft, List.getElem_append]
  split
  · next hlow =>
    rw [List.length_drop] at hlow
    rw [List.getElem_drop, getElem_bitsOf]
    simp [show 19 - i < 20 by omega, show ¬ 19 - i < m by omega, show 19 - i - m = 19 - (m + i) by omega]
  · next hlow =>
    rw [List.length_drop] at hlow
    simp [show 19 - i < m by omega]

/-- The accumulator holds the bits after the last full word, right-aligned. -/
theorem Packed.bitsOf_acc {s : Nat} {bs : List Bool} {k : Packer} (h : Packed s bs k) :
    bitsOf k.acc = List.replicate (20 - k.n) false ++ bs.drop (20 * (bs.length / 20)) := by
  obtain ⟨hn, hacc, -⟩ := h
  refine List.ext_getElem (by simp [length_bitsOf]; omega) fun i hi _ => ?_
  rw [length_bitsOf] at hi
  rw [getElem_bitsOf, hacc]
  by_cases hbit : 19 - i < k.n
  · rw [if_pos hbit, List.getElem_append_right (by simp; omega), List.getElem_drop,
      List.getElem?_eq_getElem (by omega), Option.getD_some]
    congr 1
    rw [List.length_replicate]
    omega
  · rw [if_neg hbit, List.getElem_append_left (by simp; omega), List.getElem_replicate]

/-- The bits of a partial word: the text's last bits `bits`, with the zeros after them (MSB) or before them (LSB)
(42_packer.md R158). -/
def alignBits (zeros bits : List Bool) : PartialAlign → List Bool
  | .msb => bits ++ zeros
  | .lsb => zeros ++ bits

/-- The bits of a text in whole words, with the zeros of its partial word (42_packer.md R153, R158). -/
def paddedBits (al : PartialAlign) (chars : List Byte) : List Bool :=
  (chars.flatMap charBits).take (20 * (7 * chars.length / 20)) ++
    alignBits (List.replicate (20 * messageWords chars.length - 7 * chars.length) false)
      ((chars.flatMap charBits).drop (20 * (7 * chars.length / 20))) al

theorem Packed.bitsOf_align {s : Nat} {bs : List Bool} {k : Packer} (h : Packed s bs k) (al : PartialAlign) :
    bitsOf (align al k.acc k.n) =
      alignBits (List.replicate (20 - k.n) false) (bs.drop (20 * (bs.length / 20))) al := by
  cases al with
  | msb =>
    have hshift : align .msb k.acc k.n = k.acc <<< (20 - k.n) := rfl
    rw [hshift, bitsOf_shiftLeft _ (Nat.sub_le 20 k.n), h.bitsOf_acc, List.drop_left' List.length_replicate]
    rfl
  | lsb => exact h.bitsOf_acc

/-- The data words a text is packed into hold its bits, and the last one the zeros of a partial word. -/
theorem pack_eq_emitAll_bits (al : PartialAlign) (s : Nat) (chars : List Byte) :
    ∃ ds : List Data, pack al s chars = emitAll s ds ∧
      ds.flatMap bitsOf = paddedBits al chars := by
  have hk := Packed.pushChars chars (Packed.start s)
  rw [List.nil_append] at hk
  have hlen := length_flatMap_charBits chars
  have hlast := hk.bitsOf_align al
  unfold pack
  generalize chars.foldl Packer.pushChar (Packer.start s) = k at hk hlast ⊢
  obtain ⟨hn, -, ds, -, hbits, ho, hp⟩ := hk
  rw [hlen] at hn hlast hbits
  unfold Packer.finish
  split
  · obtain ⟨ho', hp'⟩ := Packer.emitMsg_emitAll ho hp (align al k.acc k.n)
    have hzeros : 20 * messageWords chars.length - 7 * chars.length = 20 - k.n := by unfold messageWords; omega
    refine ⟨ds ++ [align al k.acc k.n], Prod.ext ho' hp', ?_⟩
    rw [List.flatMap_append, List.flatMap_singleton, hbits, hlast, paddedBits, hzeros]
  · have hzeros : 20 * messageWords chars.length - 7 * chars.length = 0 := by unfold messageWords; omega
    have hrest : (chars.flatMap charBits).drop (20 * (7 * chars.length / 20)) = [] := List.drop_of_length_le (by omega)
    refine ⟨ds, Prod.ext ho hp, ?_⟩
    rw [hbits, paddedBits, hzeros, hrest]
    cases al <;> simp [alignBits]

/-- The data bits of the message codewords, in the order sent. -/
theorem flatMap_dataBits_pack (al : PartialAlign) (s : Nat) (chars : List Byte) :
    ((pack al s chars).1.filter (· ≠ syncWord)).flatMap dataBits = paddedBits al chars := by
  obtain ⟨ds, hpack, hbits⟩ := pack_eq_emitAll_bits al s chars
  rw [hpack, filter_emitAll, List.flatMap_map, ← hbits]
  simp only [dataBits_msgWord]

/-- Settles O28: the message codewords carry the data words, which hold the text's bits and the zeros of a partial
word. -/
theorem packKeepsEveryBit : Obligations.PackKeepsEveryBit := by
  intro s chars _
  rw [flatMap_dataBits_pack, flatMap_dataBits_pack]
  constructor
  · rw [paddedBits, alignBits, ← List.append_assoc, List.take_append_drop]
  · rw [paddedBits, alignBits, List.append_assoc]

/-! ## PACK_TEXT -/

theorem State.startArg_eq (s : State) : s.startArg = s.startPos.toNat % 16 := by
  rw [State.startArg, BitVec.extractLsb'_toNat, Nat.shiftRight_zero]

/-- PACK_TEXT's core step: WORD, WORD_COUNT and POSITION are PACK's, and TEXT and every other register but the working
ones keep their values (42_packer.md R162). -/
theorem execWith_packText_running (p : Params) {s : State} (hb : s.status.busy = true)
    (hop : s.curOp = some .packText) :
    ∃ m w d, execWith p .packText s = .next { s with
        mem := m
        wordCount := BitVec.ofNat 32 (pack p.partialAlign (s.startPos.toNat % 16) s.chars).1.length
        position := BitVec.ofNat 4 (pack p.partialAlign (s.startPos.toNat % 16) s.chars).2
        status := { s.status with busy := false, done := true }
        curOp := none, work := w, draws := d } ∧
      (∀ k, { s with mem := m }.textEntry k = s.textEntry k) ∧
      (∀ k, { s with mem := m }.wordEntry k =
        ((pack p.partialAlign (s.startPos.toNat % 16) s.chars).1[k]?).getD (s.wordEntry k)) := by
  have hcore : execWith p .packText s = packTextCore p s := perform_running (State.running_iff.2 ⟨hb, hop⟩)
  rw [hcore, ← s.startArg_eq]
  exact ⟨_, _, _, rfl, s.textEntry_putWords _, s.wordEntry_putWords _⟩

/-- PACK_TEXT's worked example (42_packer.md R162). -/
theorem pack_msb_abc : pack .msb 0 [0x41#8, 0x42#8, 0x43#8] = ([0xC14387B8#32, 0xC00004DC#32], 2) := by
  decide +kernel

/-- Settles O50: the core step is `execWith_packText_running`, and the text ABC is packed under both alignments. -/
theorem packTextAtEveryParameterSet : Obligations.PackTextAtEveryParameterSet :=
  ⟨fun p _ _ hb hop => execWith_packText_running p hb hop, fun _ _ => ⟨rfl, rfl⟩, pack_msb_abc, by decide +kernel⟩

/-- Submitting a command to an idle block where its check names an error records it (60_exceptions.md R213). -/
theorem exec_refused {i : Instr} {s : State} {c : ErrCode} (hb : s.status.busy = false)
    (hc : commandCheck Config.params i s = some c) : exec i s = .next (s.raiseErr c) := by
  have hidle : s.running i = false := by simp [State.running, hb]
  rw [exec_eq_execWith, execWith_eq_perform, perform_not_running hidle, submit_refused hb hc]

/-- A CMD write of a command's word at an idle block where its check names an error (60_exceptions.md R213). -/
theorem step_cmdWrite_refused {i : Instr} {s : State} {es : List Event} {v : Word} {c : ErrCode}
    (he : s.events = .access (.write 0x000 4 v) :: es) (hv : decode v = .command i) (hb : s.status.busy = false)
    (hc : commandCheck Config.params i { s with events := es } = some c) :
    step s = .next ({ s with events := es }.raiseErr c) :=
  (submittedCommandRuns.1 s es v i he hb hv).trans (exec_refused hb hc)

/-- A text past TEXT_MAX is refused (60_exceptions.md R216). -/
theorem textLenCheck_eq_some {p : Params} {s : State} (h : p.textMax < s.textLen.toNat) :
    textLenCheck p s = some .textLenRange := if_pos h

/-- One character at the last position of a batch: its codeword and SYNC, back to position 0. -/
theorem pack_last_position (al : PartialAlign) (c : Byte) :
    ∃ w, w.getLsbD 31 = true ∧ pack al 15 [c] = ([w, syncWord], 0) := by
  obtain ⟨ds, hds, hpack⟩ := pack_eq_emitAll al 15 [c]
  have hone : messageWords [c].length = 1 := by simp [messageWords]
  obtain ⟨d, rfl⟩ := List.length_eq_one_iff.1 (hds.trans hone)
  exact ⟨msgWord d, msgWord_flag d, hpack⟩

/-- A text of whole words leaves the accumulator empty, so nothing is sent at its end (42_packer.md R157). -/
theorem pack_of_whole_words (al : PartialAlign) (n : Nat) {chars : List Byte} (h : 7 * chars.length % 20 = 0) :
    pack al n chars =
      ((chars.foldl Packer.pushChar (Packer.start n)).out, (chars.foldl Packer.pushChar (Packer.start n)).pos) := by
  obtain ⟨hn, -⟩ := Packed.pushChars chars (Packed.start n)
  rw [List.nil_append, length_flatMap_charBits, h] at hn
  rw [pack, Packer.finish, if_neg (by omega)]

/-- Settles O30: the write of CMD is the shared acceptance, TEXT_LEN_RANGE or CMD_BUSY, the core step is PACK at the
machine's parameters, and the corner cases are PACK's. -/
theorem packTextCommand : Obligations.PackTextCommand := by
  refine ⟨fun s es he => ⟨fun hb hlen => ?_, fun hb hlen => ?_, step_cmdWrite_busy he⟩, fun s hb hop => ?_,
    fun al n => pack_of_whole_words al n rfl, pack_last_position, fun al n _ => pack_of_whole_words al n,
    by decide +kernel, by decide +kernel, pack_msb_abc⟩
  · exact step_cmdWrite_accepted he (decode_encode .packText) hb (textLenCheck_eq_none.2 hlen)
  · exact step_cmdWrite_refused he (decode_encode .packText) hb (textLenCheck_eq_some hlen)
  · rw [exec_eq_execWith]
    exact execWith_packText_running Config.params hb hop

end Sys2Proof.Machine

/-!
PROOFS of the assembler family (43_assembler.md): the parts of a transmission (R171 to R176), its length and shape (R178),
and ASSEMBLE (R179).
-/

namespace Sys2Proof.Machine

variable {al : PartialAlign} {a f : Word} {chars : List Byte} {written : Nat}

/-! ## The trailing pad (43_assembler.md R176) -/

/-- Steps 2 to 5 write SYNC, the slot's idle words, the address codeword and the packer's output. -/
theorem length_assembleBody_eq_written (al : PartialAlign) (a f : Word) (chars : List Byte) :
    (assembleBody al a f chars).length =
      18 + (2 + (encodeAddress a f).2.toNat + (assemblePack al a f chars).1.length) := by
  rw [assembleBody, List.length_append, length_assembleHead]
  omega

theorem trailingPad_add (n : Nat) : trailingPad (18 + n) = n % 16 - 1 := by
  rw [trailingPad, preambleLen, Nat.add_sub_cancel_left]

theorem assembleWords_of_written (h : (assembleBody al a f chars).length = 18 + written) :
    assembleWords al a f chars = assembleBody al a f chars ++ List.replicate (written % 16 - 1) idleWord := by
  rw [assembleWords, h, trailingPad_add]

theorem length_assembleWords_of_written (h : (assembleBody al a f chars).length = 18 + written) :
    (assembleWords al a f chars).length = 18 + written + (written % 16 - 1) := by
  rw [assembleWords_of_written h, List.length_append, List.length_replicate, h]

/-- A remainder of 0 or 1 gives no pad. -/
theorem assembleWords_eq_body (h : (assembleBody al a f chars).length = 18 + written) (hrem : written % 16 ≤ 1) :
    assembleWords al a f chars = assembleBody al a f chars := by
  rw [assembleWords_of_written h, Nat.sub_eq_zero_of_le hrem, List.replicate_zero, List.append_nil]

/-! ## The head of a transmission (43_assembler.md R171 to R174) -/

/-- The head after the preamble. -/
theorem drop_assembleHead (a f : Word) : (assembleHead a f).drop 18 =
    syncWord :: (List.replicate (encodeAddress a f).2.toNat idleWord ++ [(encodeAddress a f).1]) := by
  rw [assembleHead, List.append_assoc, List.append_assoc]
  exact List.drop_left' List.length_replicate

theorem getElem?_assembleHead_preamble (a f : Word) {i : Nat} (hi : i < 18) :
    (assembleHead a f)[i]? = some preambleWord := by
  rw [assembleHead, List.append_assoc, List.append_assoc, List.getElem?_append_left (by rwa [List.length_replicate]),
    List.getElem?_replicate, preambleLen, if_pos hi]

theorem getElem?_assembleHead_add (a f : Word) (i : Nat) : (assembleHead a f)[18 + i]? =
    (syncWord :: (List.replicate (encodeAddress a f).2.toNat idleWord ++ [(encodeAddress a f).1]))[i]? := by
  rw [← drop_assembleHead, List.getElem?_drop]

theorem getElem?_assembleHead_idle (a f : Word) {i : Nat} (hi : i < (encodeAddress a f).2.toNat) :
    (assembleHead a f)[18 + (i + 1)]? = some idleWord := by
  rw [getElem?_assembleHead_add, List.getElem?_cons_succ, List.getElem?_append_left (by rwa [List.length_replicate]),
    List.getElem?_replicate, if_pos hi]

theorem getElem?_assembleHead_address (a f : Word) :
    (assembleHead a f)[18 + ((encodeAddress a f).2.toNat + 1)]? = some (encodeAddress a f).1 := by
  rw [getElem?_assembleHead_add, List.getElem?_cons_succ, List.getElem?_append_right List.length_replicate.le,
    List.length_replicate, Nat.sub_self, List.getElem?_cons_zero]

/-! ## The parts of a transmission -/

/-- The head, the packer's output and the trailing pad. -/
theorem assembleWords_eq_parts (h : (assembleBody al a f chars).length = 18 + written) :
    assembleWords al a f chars =
      assembleHead a f ++ ((assemblePack al a f chars).1 ++ List.replicate (written % 16 - 1) idleWord) := by
  rw [assembleWords_of_written h, assembleBody, List.append_assoc]

theorem getElem?_assembleWords_head (al : PartialAlign) (a f : Word) (chars : List Byte) {i : Nat}
    (hi : i < 20 + (encodeAddress a f).2.toNat) : (assembleWords al a f chars)[i]? = (assembleHead a f)[i]? := by
  rw [assembleWords_eq_parts (length_assembleBody_eq_written al a f chars),
    List.getElem?_append_left (by rwa [length_assembleHead])]

/-! ## The message codewords of a transmission -/

/-- The packer's words with FLAG 1 are the words other than SYNC (42_packer.md R155, R161). -/
theorem filter_flag_pack (al : PartialAlign) {s : Nat} (chars : List Byte) (hs : s < 16) :
    (pack al s chars).1.filter (fun w => w.getLsbD 31) = (pack al s chars).1.filter (· ≠ syncWord) := by
  obtain ⟨-, -, -, -, -, hmessage, -⟩ := packCounts al s chars hs
  refine List.filter_congr fun w hw => ?_
  by_cases hsync : w = syncWord
  · subst hsync
    decide
  · simp [hsync, hmessage w hw hsync]

/-- After the preamble no word of the head has FLAG 1: SYNC, the idle words and the address codeword. -/
theorem filter_flag_assembleHead (a f : Word) :
    ((assembleHead a f).drop 18).filter (fun w => w.getLsbD 31) = [] := by
  obtain ⟨haddress, -⟩ := addressCodewordFields.1 a f
  rw [drop_assembleHead, List.filter_eq_nil_iff]
  intro w hw
  simp only [List.mem_cons, List.mem_append, List.mem_replicate, List.not_mem_nil, or_false] at hw
  rcases hw with rfl | ⟨-, rfl⟩ | rfl
  · decide
  · decide
  · exact Bool.eq_false_iff.1 haddress

/-- The words with FLAG 1 after the preamble are the packer's message codewords, in order (43_assembler.md R178). -/
theorem filter_flag_assembleWords (al : PartialAlign) (a f : Word) (chars : List Byte) :
    ((assembleWords al a f chars).drop 18).filter (fun w => w.getLsbD 31) =
      (assemblePack al a f chars).1.filter (· ≠ syncWord) := by
  have hso := encodeAddress_offset_le a f
  have hhead : 18 ≤ (assembleHead a f).length := by rw [length_assembleHead]; omega
  have hpad (n : Nat) : (List.replicate n idleWord).filter (fun w => w.getLsbD 31) = [] :=
    List.filter_replicate_of_neg (by decide)
  rw [assembleWords_eq_parts (length_assembleBody_eq_written al a f chars), List.drop_append_of_le_length hhead,
    List.filter_append, List.filter_append, filter_flag_assembleHead, hpad, List.append_nil, List.nil_append,
    assemblePack, filter_flag_pack al chars (by omega)]

/-- Settles O31: the transmission is its head, the packer's output and the trailing pad, whose lengths are `20 + so`,
`written - 2 - so` and `max(0, written mod 16 - 1)`. -/
theorem assembleShape : Obligations.AssembleShape := by
  intro al a f chars so m written hso hm hwritten
  have hsmall := encodeAddress_offset_le a f
  have hpack : (assemblePack al a f chars).1.length = written - 2 - so := by
    rw [assemblePack, length_pack al chars (by omega), ← hso, ← hm]
    omega
  have hbody : (assembleBody al a f chars).length = 18 + written := by
    rw [length_assembleBody_eq_written, hpack, ← hso]
    omega
  have hhead : (assembleHead a f).length = 20 + so := by rw [length_assembleHead, hso]
  have hword {i : Nat} (hi : i < 20 + so) : (assembleWords al a f chars)[i]? = (assembleHead a f)[i]? :=
    getElem?_assembleWords_head al a f chars (hso ▸ hi)
  refine ⟨length_assembleWords_of_written hbody, hm ▸ length_assembleWords_le_wmin al a f chars, fun i hi => ?_, ?_,
    fun i hlow hi => ?_, ?_, ?_, ?_, hso ▸ filter_flag_assembleWords al a f chars⟩
  · rw [hword (by omega), getElem?_assembleHead_preamble a f hi, preambleWord]
  · rw [hword (by omega)]
    exact getElem?_assembleHead_add a f 0
  · rw [hword (by omega), show i = 18 + (i - 19 + 1) by omega]
    exact getElem?_assembleHead_idle a f (by omega)
  · rw [hword (by omega), show 19 + so = 18 + (so + 1) by omega, hso]
    exact getElem?_assembleHead_address a f
  · rw [assembleWords_eq_parts hbody, List.drop_left' hhead, List.take_left' hpack, assemblePack, hso]
  · rw [assembleWords_of_written hbody, List.drop_left' hbody]

/-! ## ASSEMBLE -/

/-- ASSEMBLE's core step: WORD, WORD_COUNT, RESULT, SLOT_OFFSET and POSITION are the transmission's, and TEXT and every
other register but the working ones keep their values (43_assembler.md R177, R179). -/
theorem execWith_assemble_running (p : Params) {s : State} (hb : s.status.busy = true)
    (hop : s.curOp = some .assemble) :
    ∃ w d, execWith p .assemble s = .next { s with
        mem := (s.putWords (assembleWords p.partialAlign s.addr s.func s.chars)).mem
        wordCount := BitVec.ofNat 32 (assembleWords p.partialAlign s.addr s.func s.chars).length
        result := (encodeAddress s.addr s.func).1
        slotOffset := (encodeAddress s.addr s.func).2
        position := BitVec.ofNat 4 (pack p.partialAlign ((encodeAddress s.addr s.func).2.toNat + 1) s.chars).2
        status := { s.status with busy := false, done := true }
        curOp := none, work := w, draws := d } := by
  have hcore : execWith p .assemble s = assembleCore p s := perform_running (State.running_iff.2 ⟨hb, hop⟩)
  exact ⟨_, _, hcore⟩

/-- `WORD[0..WORD_COUNT-1]` after a sequence is written is the sequence (10_state.md R29). -/
theorem State.words_putWords (s : State) {ws : List Word} (h : ws.length < 2 ^ 32) : (s.putWords ws).words = ws := by
  have hcount : (s.putWords ws).wordCountArg = ws.length := (BitVec.toNat_ofNat _ 32).trans (Nat.mod_eq_of_lt h)
  refine List.ext_getElem (by simp [State.words, hcount]) fun i _ hi => ?_
  simp [State.words, State.wordEntry_putWords, hi]

/-- Settles O51: the core step is `execWith_assemble_running`, and what it writes fits in WORD, so WORD_COUNT is its
length. -/
theorem assembleAtEveryParameterSet : Obligations.AssembleAtEveryParameterSet := by
  intro p s hlegal hb hop
  obtain ⟨w, d, hcore⟩ := execWith_assemble_running p hb hop
  refine ⟨_, w, d, hcore, s.textEntry_putWords _, s.wordEntry_putWords _, fun htext => s.words_putWords ?_⟩
  obtain ⟨hfit, -⟩ := outputFitsWordBuffer p p.partialAlign s.addr s.func 0 s.chars hlegal
    (s.length_chars ▸ htext) (by decide)
  obtain ⟨-, -, -, hmax, -⟩ := p.legal_iff.1 hlegal
  omega

/-! ## The corner cases of ASSEMBLE (43_assembler.md R179) -/

theorem assembleWords_mask (al : PartialAlign) (a f : Word) (chars : List Byte) :
    assembleWords al a f chars = assembleWords al (a &&& 0x1FFFFF#32) (f &&& 0x3#32) chars := by
  simp only [assembleWords, assembleBody, assembleHead, assemblePack, ← encodeAddress_mask]

/-- An empty text sends nothing and leaves the position after the address word. -/
theorem assemblePack_nil (al : PartialAlign) (a f : Word) :
    assemblePack al a f [] = ([], (encodeAddress a f).2.toNat + 1) :=
  pack_of_whole_words al _ rfl

theorem length_assembleBody_of_length (al : PartialAlign) (a f : Word) {n : Nat} (h : chars.length = n) :
    (assembleBody al a f chars).length =
      20 + 2 * (a.toNat % 8) + messageWords n + (2 * (a.toNat % 8) + 1 + messageWords n) / 16 := by
  rw [length_assembleBody, encodeAddress_offset_toNat, h]

/-- A body that fills its last batch, or only begins one, is the whole transmission. -/
theorem assembleBody_without_pad (hlen : (assembleBody al a f chars).length = 18 + written) (hrem : written % 16 ≤ 1) :
    (assembleBody al a f chars).length = 18 + written ∧ assembleWords al a f chars = assembleBody al a f chars :=
  ⟨hlen, assembleWords_eq_body hlen hrem⟩

/-- A text of one message codeword at the last position of a batch: the codeword and SYNC. -/
theorem pack_one_word_at_last_position (al : PartialAlign) {chars : List Byte} (h : messageWords chars.length = 1) :
    ∃ w, w ≠ syncWord ∧ (pack al 15 chars).1 = [w, syncWord] := by
  obtain ⟨ds, hds, hpack⟩ := pack_eq_emitAll al 15 chars
  obtain ⟨d, rfl⟩ := List.length_eq_one_iff.1 (hds.trans h)
  exact ⟨msgWord d, msgWord_ne_syncWord d, congrArg Prod.fst hpack⟩

/-- The worked example of 43_assembler.md R179. -/
theorem assembleWords_empty_at_zero (al : PartialAlign) : assembleWords al 0#32 0#32 [] =
    List.replicate 18 0xAAAAAAAA#32 ++ [0x7CD215D8#32, 0x00000000#32, 0x7A89C197#32] := by
  have hbody : (assembleBody al 0#32 0#32 []).length = 18 + 2 := by
    rw [length_assembleBody_eq_written, assemblePack_nil, encodeAddress_zero]
    rfl
  rw [assembleWords_eq_parts hbody, assemblePack_nil, assembleHead, encodeAddress_zero]
  rfl

/-- Settles O33: the write of CMD is the shared acceptance, TEXT_LEN_RANGE or CMD_BUSY, the core step is the transmission
at the machine's parameters, and in the corner cases `written` and its remainder are counted. -/
theorem assembleCommand : Obligations.AssembleCommand := by
  refine ⟨fun s es he => ⟨fun hb hlen => ?_, fun hb hlen => ?_, step_cmdWrite_busy he⟩, fun s hb hop => ?_,
    assembleWords_mask, fun al a f => ?_, fun al f chars hchars => ?_, fun al f chars hchars => ?_,
    fun al a f chars written hwritten => ?_, fun al f chars hchars => ?_, assembleWords_empty_at_zero .msb⟩
  · exact step_cmdWrite_accepted he (decode_encode .assemble) hb (textLenCheck_eq_none.2 hlen)
  · exact step_cmdWrite_refused he (decode_encode .assemble) hb (textLenCheck_eq_some hlen)
  · obtain ⟨w, d, hcore⟩ := execWith_assemble_running Config.params hb hop
    exact ⟨_, w, d, (exec_eq_execWith _ s).trans hcore, s.textEntry_putWords _, s.wordEntry_putWords _⟩
  · rw [assemblePack_nil]
    exact ⟨rfl, rfl⟩
  · exact assembleBody_without_pad (length_assembleBody_of_length al 0#32 f hchars) (by decide)
  · exact assembleBody_without_pad (length_assembleBody_of_length al 5#32 f hchars) (by decide)
  · have hbody := length_assembleBody_eq_written al a f chars
    rw [← hwritten] at hbody
    exact ⟨length_assembleWords_of_written hbody, assembleWords_eq_body hbody⟩
  · have hbody : (assembleBody al 7#32 f chars).length = 18 + (2 + 14 + 2) :=
      length_assembleBody_of_length al 7#32 f hchars
    obtain ⟨w, hw, hpack⟩ := pack_one_word_at_last_position al (chars := chars) (congrArg messageWords hchars)
    exact ⟨w, hw, hpack, length_assembleWords_of_written hbody⟩

end Sys2Proof.Machine

/-!
PROOFS of the modulator family (44_modulator.md): the steps by the sink's answer (R187, R192 to R194), sink failure (R195),
and that a MODULATE whose answers are all ok plays the whole buffer (R190, R196, R197).
-/

namespace Sys2Proof.Machine

variable {s : State}

/-! ## Where an answer comes from (44_modulator.md R186, R187) -/

/-- An open or a close takes the head of `answers`, and changes nothing but the answers and the count of free values. -/
theorem State.takeSettled_spec (s : State) : ∃ as d, s.takeSettled.2 = { s with answers := as, draws := d } ∧
    ∀ a rest, a ≠ .held → s.answers = a :: rest →
      s.takeSettled.1 = decide (a = .ok) ∧ as = rest ∧ d = s.draws := by
  obtain ⟨as, d, hframe⟩ := s.takeSettled_frame
  refine ⟨as, d, hframe, fun a rest ha hs => ?_⟩
  rw [State.takeSettled_cons ha hs] at hframe ⊢
  exact ⟨rfl, (congrArg State.answers hframe).symm, (congrArg State.draws hframe).symm⟩

/-- A write takes the head of `answers`, and changes nothing but the answers and the count of free values. -/
theorem State.takeWriteAnswer_spec (s : State) : ∃ as d,
    s.takeWriteAnswer.2 = { s with answers := as, draws := d } ∧
    ∀ a rest, s.answers = a :: rest → s.takeWriteAnswer.1 = a ∧ as = rest ∧ d = s.draws := by
  obtain ⟨as, d, hframe⟩ := s.takeWriteAnswer_frame
  refine ⟨as, d, hframe, fun a rest hs => ?_⟩
  rw [State.takeWriteAnswer_cons hs] at hframe ⊢
  exact ⟨rfl, (congrArg State.answers hframe).symm, (congrArg State.draws hframe).symm⟩

/-- A held answer before an open or a close is passed over (log entry 14). -/
theorem State.takeSettled_held {as : List SinkAnswer} (h : s.answers = .held :: as) :
    s.takeSettled = { s with answers := as }.takeSettled := by
  have hdrop : s.answers.dropWhile (· = .held) = as.dropWhile (· = .held) := by
    rw [h, List.dropWhile_cons_of_pos (by simp)]
  simp only [State.takeSettled, hdrop]

/-! ## The step of a running MODULATE, by its phase -/

theorem exec_modulate_opening (hb : s.status.busy = true) (hop : s.curOp = some .modulate) (hm : s.mph = .opening) :
    exec .modulate s = .next (openStep s) :=
  (exec_running hb hop).trans (modulateCore_opening hm)

theorem exec_modulate_stream (hb : s.status.busy = true) (hop : s.curOp = some .modulate) (hm : s.mph = .stream) :
    exec .modulate s = .next (streamStep s) :=
  (exec_running hb hop).trans (modulateCore_stream hm)

theorem exec_modulate_closing (hb : s.status.busy = true) (hop : s.curOp = some .modulate) (hm : s.mph = .closing) :
    exec .modulate s = .next (closeStep s) :=
  (exec_running hb hop).trans (modulateCore_closing hm)

theorem State.wordCountArg_eq_zero_iff (s : State) : s.wordCountArg = 0 ↔ s.wordCount = 0#32 :=
  (BitVec.toNat_inj (y := 0#32))

/-- Settles O34: the open is answered as `State.takeSettled_spec` says, and the answer and WORD_COUNT choose the step. -/
theorem modulateOpenStep : Obligations.ModulateOpenStep := by
  intro s hb hop hm
  obtain ⟨as, d, hframe, hhead⟩ := s.takeSettled_spec
  rw [exec_modulate_opening hb hop hm]
  refine ⟨as, d, hhead, fun hok hn => ?_, fun hok hn => ?_, fun hfail => ?_⟩
  · rw [openStep_empty hok (s.wordCountArg_eq_zero_iff.2 hn), hframe]
    rfl
  · rw [openStep_stream hok (mt s.wordCountArg_eq_zero_iff.1 hn), hframe]
    rfl
  · rw [openStep_fail hfail, hframe]
    rfl

/-! ## STREAM and CLOSE -/

/-- After the last sample of a bit the word advances exactly where that bit is bit 0 (44_modulator.md R193). -/
theorem nextPos_mw_of_last_sample {m : ModPos} (h : m.ms + 1 = m.spbL) :
    (nextPos m).mw = if m.mb = 0 then m.mw + 1 else m.mw := by
  rw [nextPos, if_pos h]
  split <;> rfl

/-- The phase after an accepted sample, by the fields of the position. -/
theorem State.sampleAccepted_mph_of_stream (hm : s.mph = .stream) : s.sampleAccepted.mph =
    if s.mpos.ms + 1 = s.mpos.spbL ∧ (if s.mpos.mb = 0 then s.mpos.mw + 1 else s.mpos.mw) = s.wordCount.toNat
    then .closing else .stream := by
  have hlast : (s.mpos.ms + 1 = s.mpos.spbL ∧ (nextPos s.mpos).mw = s.wordCountArg) ↔
      s.mpos.ms + 1 = s.mpos.spbL ∧ (if s.mpos.mb = 0 then s.mpos.mw + 1 else s.mpos.mw) = s.wordCount.toNat :=
    and_congr_right fun h => by rw [nextPos_mw_of_last_sample h, State.wordCountArg]
  rw [State.sampleAccepted_mph, hm]
  exact if_congr hlast rfl rfl

/-- Settles O35: the write is answered as `State.takeWriteAnswer_spec` says, and the answer chooses the step. -/
theorem modulateStreamStep : Obligations.ModulateStreamStep := by
  intro s hb hop hm
  obtain ⟨as, d, hframe, hhead⟩ := s.takeWriteAnswer_spec
  rw [exec_modulate_stream hb hop hm]
  refine ⟨as, d, hhead, fun hheld => ?_, fun hfail => ?_, fun hok => ?_⟩
  · rw [streamStep_held hheld, hframe]
  · rw [streamStep_fail hfail, hframe]
    rfl
  · rw [streamStep_ok hok, hframe, ← State.sampleAccepted_mph_of_stream hm]
    rfl

/-- Settles O36: the close is answered as `State.takeSettled_spec` says, and the answer chooses the step. -/
theorem modulateCloseStep : Obligations.ModulateCloseStep := by
  intro s hb hop hm
  obtain ⟨as, d, hframe, hhead⟩ := s.takeSettled_spec
  rw [exec_modulate_closing hb hop hm]
  refine ⟨as, d, Config.leftoverPos d, hhead, fun hok => ?_, fun hfail => ?_⟩
  · rw [closeStep_ok hok, hframe]
    rfl
  · rw [closeStep_fail hfail, hframe]
    rfl

/-! ## A held write (44_modulator.md R187) -/

/-- An open is always performed: OPEN ends in another phase with one operation recorded. -/
theorem openStep_performs (hm : s.mph = .opening) :
    (openStep s).mph ≠ s.mph ∧ ∃ o, (openStep s).sinkLog = o :: s.sinkLog := by
  obtain ⟨as, d, hframe⟩ := s.takeSettled_frame
  rw [hm]
  cases ha : s.takeSettled.1 with
  | false => rw [openStep_fail ha, hframe]; exact ⟨nofun, _, rfl⟩
  | true =>
    by_cases hn : s.wordCountArg = 0
    · rw [openStep_empty ha hn, hframe]; exact ⟨nofun, _, rfl⟩
    · rw [openStep_stream ha hn, hframe]; exact ⟨nofun, _, rfl⟩

/-- A close is always performed: CLOSE ends in another phase with one operation recorded. -/
theorem closeStep_performs (hm : s.mph = .closing) :
    (closeStep s).mph ≠ s.mph ∧ ∃ o, (closeStep s).sinkLog = o :: s.sinkLog := by
  obtain ⟨as, d, hframe⟩ := s.takeSettled_frame
  rw [hm]
  cases ha : s.takeSettled.1 with
  | false => rw [closeStep_fail ha, hframe]; exact ⟨nofun, _, rfl⟩
  | true => rw [closeStep_ok ha, hframe]; exact ⟨nofun, _, rfl⟩

/-- Settles O38: a held answer makes STREAM's step `streamStep_held`, and OPEN and CLOSE take an answer that is not held. -/
theorem heldWriteStalls : Obligations.HeldWriteStalls := by
  refine ⟨fun s as hb hop hm hs => ?_, fun s as hs => State.takeSettled_held hs, fun s hb hop hm => ?_⟩
  · have hanswer := State.takeWriteAnswer_cons hs
    rw [exec_modulate_stream hb hop hm, streamStep_held (by rw [hanswer]), hanswer]
  · rcases hm with hm | hm
    · obtain ⟨hphase, o, hlog⟩ := openStep_performs hm
      exact ⟨_, o, exec_modulate_opening hb hop hm, hphase, hlog⟩
    · obtain ⟨hphase, o, hlog⟩ := closeStep_performs hm
      exact ⟨_, o, exec_modulate_closing hb hop hm, hphase, hlog⟩

/-! ## Sink failure (44_modulator.md R195) -/

/-- An error leaves ERR set (60_exceptions.md R211). -/
@[simp] theorem Status.raise_err (c : ErrCode) (st : Status) : (st.raise c).err = true := by
  unfold Status.raise
  split
  · assumption
  · rfl

/-- The first error wins (60_exceptions.md R211). -/
@[simp] theorem Status.raise_errCode (c : ErrCode) (st : Status) :
    (st.raise c).errCode = if st.err then st.errCode else c := by
  unfold Status.raise
  split <;> rfl

/-- In every phase a fail answer records the failed operation and is the sink failure. -/
theorem exec_modulate_fail (hb : s.status.busy = true) (hop : s.curOp = some .modulate) (hm : s.mph ≠ .idle)
    (hwrite : s.mph = .stream → s.takeWriteAnswer.1 = .fail) (hsettled : s.mph ≠ .stream → s.takeSettled.1 = false) :
    ∃ as d o, exec .modulate s = .next ({ s with answers := as, draws := d }.logSink o).sinkFail ∧
      (o = .opened false ∨ o = .wrote s.currentLevel false ∨ o = .closed false) := by
  obtain ⟨as, d, hframe⟩ := s.takeSettled_frame
  obtain ⟨as', d', hframe'⟩ := s.takeWriteAnswer_frame
  cases hphase : s.mph with
  | idle => exact absurd hphase hm
  | opening =>
    rw [exec_modulate_opening hb hop hphase, openStep_fail (hsettled (by simp [hphase])), hframe]
    exact ⟨as, d, _, rfl, .inl rfl⟩
  | stream =>
    rw [exec_modulate_stream hb hop hphase, streamStep_fail (hwrite hphase), hframe']
    exact ⟨as', d', _, rfl, .inr (.inl rfl)⟩
  | closing =>
    rw [exec_modulate_closing hb hop hphase, closeStep_fail (hsettled (by simp [hphase])), hframe]
    exact ⟨as, d, _, rfl, .inr (.inr rfl)⟩

/-- Settles O37: the step is the sink failure of `exec_modulate_fail`, which leaves an idle block. -/
theorem sinkFailureAbandons : Obligations.SinkFailureAbandons := by
  intro s hb hop hm hwrite hsettled
  obtain ⟨as, d, o, hexec, ho⟩ := exec_modulate_fail hb hop hm hwrite hsettled
  exact ⟨_, o, hexec, rfl, rfl, rfl, Status.raise_done _ _, Status.raise_err _ _, Status.raise_errCode _ _, rfl, ho, rfl,
    rfl, rfl, run_idle rfl rfl⟩

/-! ## The writes that play the buffer (44_modulator.md R190) -/

/-- Element `n * i + j` of a concatenation of lists of `n` elements each is element `j` of list `i`. -/
theorem getElem?_flatMap_of_length {α β : Type} {f : α → List β} {n : Nat} (hf : ∀ x, (f x).length = n) {j : Nat}
    (hj : j < n) (l : List α) (i : Nat) : (l.flatMap f)[n * i + j]? = l[i]?.bind fun x => (f x)[j]? := by
  induction l generalizing i with
  | nil => rfl
  | cons x l ih =>
    rw [List.flatMap_cons]
    cases i with
    | zero => rw [Nat.mul_zero, Nat.zero_add, List.getElem?_append_left (by rwa [hf])]; rfl
    | succ i =>
      rw [Nat.mul_succ, List.getElem?_append_right (by rw [hf]; omega), hf, List.getElem?_cons_succ, ← ih]
      congr 1
      omega

theorem length_flatMap_of_length {α β : Type} {f : α → List β} {n : Nat} (hf : ∀ x, (f x).length = n) (l : List α) :
    (l.flatMap f).length = n * l.length := by
  rw [List.length_flatMap, funext hf, List.map_const', List.sum_replicate, smul_eq_mul, Nat.mul_comm]

theorem length_wordWrites (spb : Nat) (inv : Bool) (w : Word) : (wordWrites spb inv w).length = 32 * spb := by
  rw [wordWrites, length_flatMap_of_length (fun _ => List.length_replicate), List.length_range, Nat.mul_comm]

/-- The operations of one word: bit `31 - b` is written `spb` times from operation `spb * b` on. -/
theorem getElem?_wordWrites {spb ms b : Nat} (hms : ms < spb) (hb : b < 32) (inv : Bool) (w : Word) :
    (wordWrites spb inv w)[spb * b + ms]? = some (.wrote (levelOf (w.getLsbD (31 - b)) inv) true) := by
  rw [wordWrites, getElem?_flatMap_of_length (fun _ => List.length_replicate) hms, List.getElem?_range hb,
    Option.bind_some, List.getElem?_replicate, if_pos hms]

/-- The writes of the whole buffer at the latched samples per bit, every one accepted. -/
def State.plays (s : State) : List SinkOp := s.words.flatMap (wordWrites s.mpos.spbL s.invertArg)

theorem State.length_plays (s : State) : s.plays.length = 32 * s.wordCountArg * s.mpos.spbL := by
  rw [State.plays, length_flatMap_of_length (length_wordWrites _ _), State.words, List.length_map, List.length_range,
    Nat.mul_right_comm]

/-- The position stands at a sample of the buffer. -/
def State.InBuffer (s : State) : Prop :=
  s.mpos.mw < s.wordCountArg ∧ s.mpos.mb ≤ 31 ∧ s.mpos.ms < s.mpos.spbL

/-- The write that is due is the one with as many before it as samples are done. -/
theorem State.InBuffer.getElem?_plays (h : s.InBuffer) :
    s.plays[samplesDone s.mpos]? = some (.wrote s.currentLevel true) := by
  obtain ⟨hw, hb, hms⟩ := h
  have hword : s.words[s.mpos.mw]? = some (s.wordEntry s.mpos.mw) := by simp [State.words, hw]
  have hbit : s.mpos.spbL * (31 - s.mpos.mb) + s.mpos.ms < 32 * s.mpos.spbL := by
    have := Nat.mul_le_mul_left s.mpos.spbL (show 31 - s.mpos.mb ≤ 31 by omega)
    omega
  have hindex : samplesDone s.mpos =
      32 * s.mpos.spbL * s.mpos.mw + (s.mpos.spbL * (31 - s.mpos.mb) + s.mpos.ms) := by
    rw [samplesDone]
    ring
  rw [hindex, State.plays, getElem?_flatMap_of_length (length_wordWrites _ _) hbit, hword, Option.bind_some,
    getElem?_wordWrites hms (by omega), show 31 - (31 - s.mpos.mb) = s.mpos.mb by omega, State.currentLevel]

/-- The writes still to come are the one that is due and those after it. -/
theorem State.InBuffer.drop_plays (h : s.InBuffer) : s.plays.drop (samplesDone s.mpos) =
    .wrote s.currentLevel true :: s.plays.drop (samplesDone s.mpos + 1) := by
  obtain ⟨hlt, hget⟩ := List.getElem?_eq_some_iff.1 h.getElem?_plays
  rw [List.drop_eq_getElem_cons hlt, hget]

/-! ## A MODULATE whose answers are all ok (44_modulator.md R196, R197) -/

/-- A running MODULATE with nothing scheduled. -/
structure State.Modulating (s : State) : Prop where
  busy : s.status.busy = true
  curOp : s.curOp = some .modulate
  events : s.events = []

variable {as : List SinkAnswer}

theorem State.Modulating.step_eq (h : s.Modulating) : step s = exec .modulate s := step_running h.busy h.curOp h.events

/-- The due write accepted and counted, the position one sample on, and the answers `as` left. -/
def State.playOne (as : List SinkAnswer) (s : State) : State :=
  { s with
    answers := as, sinkLog := .wrote s.currentLevel true :: s.sinkLog, sampleCount := s.sampleCount + 1#32
    mpos := nextPos s.mpos }

theorem State.plays_playOne (as : List SinkAnswer) (s : State) : (s.playOne as).plays = s.plays :=
  congrArg (fun spb => s.words.flatMap (wordWrites spb s.invertArg)) (nextPos_spbL s.mpos)

/-- An ok answer to a write is an accepted sample. -/
theorem State.Modulating.step_sample (h : s.Modulating) (hm : s.mph = .stream) (hs : s.answers = .ok :: as) :
    step s = .next ({ s with answers := as }.logSink (.wrote s.currentLevel true)).sampleAccepted := by
  have hanswer := State.takeWriteAnswer_cons hs
  rw [h.step_eq, exec_modulate_stream h.busy h.curOp hm, streamStep_ok (by rw [hanswer]), hanswer]

theorem State.Modulating.step_sample_last (h : s.Modulating) (hm : s.mph = .stream) (hs : s.answers = .ok :: as)
    (hlast : s.mpos.ms + 1 = s.mpos.spbL) (hend : (nextPos s.mpos).mw = s.wordCountArg) :
    step s = .next { s.playOne as with mph := .closing } :=
  (h.step_sample hm hs).trans (congrArg _ (State.sampleAccepted_last hlast hend))

theorem State.Modulating.step_sample_more (h : s.Modulating) (hm : s.mph = .stream) (hs : s.answers = .ok :: as)
    (hmore : ¬ (s.mpos.ms + 1 = s.mpos.spbL ∧ (nextPos s.mpos).mw = s.wordCountArg)) :
    step s = .next (s.playOne as) :=
  (h.step_sample hm hs).trans (congrArg _ (State.sampleAccepted_more hmore))

/-- STREAM plays the rest of the buffer, one step to a sample, and ends in CLOSE; by induction on the samples left. -/
theorem State.Modulating.run_stream {n : Nat} (h : s.Modulating) (hm : s.mph = .stream) (hpos : s.InBuffer)
    (hleft : samplesDone s.mpos + n = s.plays.length) (hs : s.answers = List.replicate n .ok ++ as) :
    ∃ m, Host.Core.run Sys2Proof.core n s = .next { s with
      answers := as, sinkLog := (s.plays.drop (samplesDone s.mpos)).reverse ++ s.sinkLog
      sampleCount := s.sampleCount + BitVec.ofNat 32 n, mph := .closing, mpos := m } := by
  induction n generalizing s with
  | zero =>
    have hlt := (List.getElem?_eq_some_iff.1 hpos.getElem?_plays).1
    omega
  | succ n ih =>
    replace hs : s.answers = .ok :: (List.replicate n .ok ++ as) := hs
    have hcount : s.sampleCount + BitVec.ofNat 32 (n + 1) = s.sampleCount + 1#32 + BitVec.ofNat 32 n := by
      rw [Nat.add_comm, BitVec.ofNat_add, BitVec.add_assoc]
    rw [hpos.drop_plays, List.reverse_cons, List.append_assoc, List.singleton_append, hcount]
    rcases nextPos_range hpos with ⟨hlast, hend, hall⟩ | ⟨hmore, hnext⟩
    · have hdone : samplesDone s.mpos + 1 = s.plays.length := hall.trans s.length_plays.symm
      obtain rfl : n = 0 := by omega
      rw [run_succ 0 (h.step_sample_last hm hs hlast hend), run_zero, hdone, List.drop_length, BitVec.add_zero]
      exact ⟨_, rfl⟩
    · have hdone : samplesDone (s.playOne (List.replicate n .ok ++ as)).mpos = samplesDone s.mpos + 1 :=
        samplesDone_nextPos _ hpos.2.1 hpos.2.2
      obtain ⟨m, hrun⟩ := ih (s := s.playOne (List.replicate n .ok ++ as)) ⟨h.busy, h.curOp, h.events⟩ hm hnext
        (by rw [hdone, State.plays_playOne]; omega) rfl
      rw [hdone, State.plays_playOne] at hrun
      rw [run_succ n (h.step_sample_more hm hs hmore), hrun]
      exact ⟨m, rfl⟩

/-- OPEN answered ok with words to play: STREAM at the first sample, and the answers `as` left. -/
def State.startStream (as : List SinkAnswer) (s : State) : State :=
  { s with
    answers := as, sinkLog := .opened true :: s.sinkLog, mph := .stream, mpos := { s.mpos with mw := 0, mb := 31, ms := 0 } }

theorem State.Modulating.step_open_empty (h : s.Modulating) (hm : s.mph = .opening) (hs : s.answers = .ok :: as)
    (hn : s.wordCountArg = 0) :
    step s = .next { { s with answers := as }.logSink (.opened true) with mph := .closing } := by
  have hanswer := State.takeSettled_cons (a := .ok) (by decide) hs
  rw [h.step_eq, exec_modulate_opening h.busy h.curOp hm, openStep_empty (by rw [hanswer]; rfl) hn, hanswer]

theorem State.Modulating.step_open_stream (h : s.Modulating) (hm : s.mph = .opening) (hs : s.answers = .ok :: as)
    (hn : s.wordCountArg ≠ 0) : step s = .next (s.startStream as) := by
  have hanswer := State.takeSettled_cons (a := .ok) (by decide) hs
  rw [h.step_eq, exec_modulate_opening h.busy h.curOp hm, openStep_stream (by rw [hanswer]; rfl) hn, hanswer]
  rfl

/-- STREAM from its start plays every sample of the buffer. -/
theorem State.Modulating.run_startStream (h : s.Modulating) (hspb : 1 ≤ s.mpos.spbL) (hn : s.wordCountArg ≠ 0) :
    ∃ m, Host.Core.run Sys2Proof.core s.plays.length (s.startStream (List.replicate s.plays.length .ok ++ as)) =
      .next { s with
        answers := as, sinkLog := s.plays.reverse ++ .opened true :: s.sinkLog
        sampleCount := s.sampleCount + BitVec.ofNat 32 s.plays.length, mph := .closing, mpos := m } := by
  have hfirst (bs : List SinkAnswer) : samplesDone (s.startStream bs).mpos = 0 := by
    simp [State.startStream, samplesDone]
  have hrun := State.Modulating.run_stream (s := s.startStream (List.replicate s.plays.length .ok ++ as))
    ⟨h.busy, h.curOp, h.events⟩ rfl ⟨Nat.pos_of_ne_zero hn, Nat.le_refl 31, hspb⟩ (by rw [hfirst, Nat.zero_add]; rfl) rfl
  rwa [hfirst] at hrun

/-- OPEN answered ok and then every sample of the buffer, none where WORD_COUNT is 0. -/
theorem State.Modulating.run_open_stream (h : s.Modulating) (hm : s.mph = .opening) (hspb : 1 ≤ s.mpos.spbL)
    (hs : s.answers = .ok :: (List.replicate s.plays.length .ok ++ as)) :
    ∃ m, Host.Core.run Sys2Proof.core (s.plays.length + 1) s = .next { s with
      answers := as, sinkLog := s.plays.reverse ++ .opened true :: s.sinkLog
      sampleCount := s.sampleCount + BitVec.ofNat 32 s.plays.length, mph := .closing, mpos := m } := by
  by_cases hn : s.wordCountArg = 0
  · have hnil : s.plays = [] := by rw [← List.length_eq_zero_iff, s.length_plays, hn, Nat.mul_zero, Nat.zero_mul]
    rw [hnil] at hs ⊢
    rw [List.length_nil, run_succ 0 (h.step_open_empty hm hs hn), run_zero, BitVec.add_zero]
    exact ⟨_, rfl⟩
  · rw [run_succ _ (h.step_open_stream hm hs hn)]
    exact h.run_startStream hspb hn

/-- CLOSE answered ok completes the command (44_modulator.md R194). -/
theorem State.Modulating.run_close (h : s.Modulating) (hm : s.mph = .closing) (hs : s.answers = .ok :: as) :
    Host.Core.run Sys2Proof.core 1 s =
      .next ({ s with answers := as }.logSink (.closed true)).complete.dropModulator := by
  have hanswer := State.takeSettled_cons (a := .ok) (by decide) hs
  have hstep : step s = .next (closeStep s) := h.step_eq.trans (exec_modulate_closing h.busy h.curOp hm)
  rw [run_succ 0 hstep, run_zero, closeStep_ok (by rw [hanswer]; rfl), hanswer]

/-- Settles O39: OPEN and the samples are `State.Modulating.run_open_stream`, and the last answer is that of CLOSE. -/
theorem modulatePlaysWholeBuffer : Obligations.ModulatePlaysWholeBuffer := by
  intro s as hb hop hm he hspb hzero hs
  have hlen : s.plays.length = 32 * s.wordCount.toNat * s.mpos.spbL := s.length_plays
  rw [← hlen] at hs ⊢
  have hanswers : s.answers = .ok :: (List.replicate s.plays.length .ok ++ .ok :: as) := by
    rw [hs, List.replicate_succ, List.replicate_succ', List.cons_append, List.append_assoc, List.singleton_append]
  obtain ⟨m, hrun⟩ := State.Modulating.run_open_stream ⟨hb, hop, he⟩ hm hspb hanswers
  have hclose := (run_add 1 hrun).trans (State.Modulating.run_close ⟨hb, hop, he⟩ rfl rfl)
  refine ⟨_, hclose, ?_, rfl, ?_, rfl, rfl, rfl, rfl, rfl, rfl, rfl, rfl, rfl⟩
  · have hlog : ([SinkOp.opened true] ++ s.plays ++ [SinkOp.closed true]).reverse ++ s.sinkLog =
        .closed true :: (s.plays.reverse ++ .opened true :: s.sinkLog) := by simp
    exact hlog.symm
  · show s.sampleCount + BitVec.ofNat 32 s.plays.length = BitVec.ofNat 32 s.plays.length
    rw [hzero, BitVec.zero_add]

end Sys2Proof.Machine

/-!
PROOFS of the exceptions family (60_exceptions.md): recording an error (R211), a CMD write at any parameter set by the order
of the checks (R213 to R218, R191), and the core's turn (R232).
-/

namespace Sys2Proof.Machine

open Host (Outcome)

variable {p : Params} {s : State} {i : Instr} {es : List Event} {v : Word} {c : ErrCode}
  {run : Instr → State → Outcome State Fault Refusal}

/-! ## Recording an error (60_exceptions.md R211) -/

theorem Status.raise_first {st : Status} (h : st.err = false) : st.raise c = { st with err := true, errCode := c } := by
  rw [Status.raise, if_neg (by simp [h])]

theorem Status.raise_later {st : Status} (h : st.err = true) : st.raise c = st := if_pos h

/-- Settles O7: `Status.raise` by whether ERR was set, and a sink failure is that record, then the end of the command. -/
theorem firstErrorWins : Obligations.FirstErrorWins := by
  intro s c
  refine ⟨fun h => ?_, fun h => ?_, _, _, rfl⟩
  · rw [State.raiseErr, Status.raise_first h]
  · rw [State.raiseErr, Status.raise_later h]

/-! ## The core's turn -/

/-- Settles O5: the head of `events` gives the core its turn, which is the running command's step. -/
theorem acceptedCommandRuns : Obligations.AcceptedCommandRuns := by
  refine ⟨fun s i hb hop he => step_running hb hop he, fun s es i hb hop he => ?_, fun s hb he => step_idle hb he⟩
  exact (transition_core he).trans (coreTurn_running hb hop)

/-! ## A command at any parameter set: running, refused or accepted -/

theorem execWith_running (hb : s.status.busy = true) (hop : s.curOp = some i) : execWith p i s = commandCore p i s := by
  rw [execWith_eq_perform, perform_running (State.running_iff.2 ⟨hb, hop⟩)]

/-- At an idle block a command is submitted (60_exceptions.md R213). -/
theorem execWith_idle (hb : s.status.busy = false) :
    execWith p i s = submit i (commandCheck p i) (commandStart p i) s := by
  have hidle : s.running i = false := by simp [State.running, hb]
  rw [execWith_eq_perform, perform_not_running hidle]

/-- A compute command's core step is its completion (60_exceptions.md R213). -/
theorem commandCore_compute_completes (p : Params) (s : State) (hi : i ≠ .modulate) :
    ∃ t, commandCore p i s = .next t ∧ t.status.busy = false ∧ t.status.done = true ∧ t.curOp = none := by
  cases i with
  | encCw | encAddr | packText | assemble => exact ⟨_, rfl, rfl, rfl, rfl⟩
  | modulate => exact absurd rfl hi

/-! ## The operand checks -/

theorem modulateCheck_wordCountRange (h : p.wordMax < s.wordCount.toNat) :
    modulateCheck p s = some .wordCountRange := if_pos h

/-- SPB is 0 exactly for a rate of 0 and for a rate above SAMPLE_RATE (60_exceptions.md R218). -/
theorem samplesPerBit_eq_zero_iff (p : Params) (r : Nat) : samplesPerBit p r = 0 ↔ r = 0 ∨ p.sampleRate < r :=
  Nat.div_eq_zero_iff

theorem modulateCheck_badRate (hn : s.wordCount.toNat ≤ p.wordMax)
    (hr : s.bitRate.toNat = 0 ∨ p.sampleRate < s.bitRate.toNat) : modulateCheck p s = some .badRate := by
  have hspb : samplesPerBit p s.bitRateArg = 0 := (samplesPerBit_eq_zero_iff p _).2 hr
  rw [modulateCheck, if_neg (show ¬ p.wordMax < s.wordCountArg from Nat.not_lt.2 hn), if_pos hspb, ite_self]

theorem modulateCheck_none (hn : s.wordCount.toNat ≤ p.wordMax) (hr : s.bitRate.toNat ≠ 0)
    (hrate : s.bitRate.toNat ≤ p.sampleRate) : modulateCheck p s = none :=
  modulateCheck_eq_none.2 ⟨hn, hr, Nat.div_ne_zero_iff.2 ⟨hr, hrate⟩⟩

/-! ## A CMD write at any parameter set -/

theorem submitWord_illegal {why : IllegalWord} (hb : s.status.busy = false) (hv : decode v = .illegal why) :
    submitWord run v s = .next (s.raiseErr .illegalCmd) := by
  simp [submitWord, hb, hv]

/-- A write of CMD submits the word (10_state.md R26). -/
theorem transition_cmdWrite (he : s.events = .access (.write 0x000 4 v) :: es) :
    transition p run s = submitWord run v { s with events := es } :=
  (transition_access he).trans (busAccess_write ((if_pos rfl).trans (target?_reg_offset p .cmd)))

/-- The write of a command's word at an idle block is the command's acceptance (60_exceptions.md R213). -/
theorem transition_cmdWrite_command (he : s.events = .access (.write 0x000 4 v) :: es) (hv : decode v = .command i)
    (hb : s.status.busy = false) : transition p (execWith p) s =
      submit i (commandCheck p i) (commandStart p i) { s with events := es } :=
  ((transition_cmdWrite he).trans (submitWord_command hb hv)).trans (execWith_idle hb)

theorem transition_cmdWrite_refused (he : s.events = .access (.write 0x000 4 v) :: es) (hv : decode v = .command i)
    (hb : s.status.busy = false) (hc : commandCheck p i { s with events := es } = some c) :
    transition p (execWith p) s = .next ({ s with events := es }.raiseErr c) :=
  (transition_cmdWrite_command he hv hb).trans (submit_refused hb hc)

/-- What acceptance leaves: LASTOP is the word's own `OP` field (30_encoding.md R91, 60_exceptions.md R213). -/
theorem transition_cmdWrite_accepted (he : s.events = .access (.write 0x000 4 v) :: es) (hv : decode v = .command i)
    (hb : s.status.busy = false) (hc : commandCheck p i { s with events := es } = none) :
    transition p (execWith p) s = .next (commandStart p i { s with
      events := es
      status := { s.status with done := false, lastOp := v.extractLsb' 0 4, busy := true }
      curOp := some i }) := by
  obtain ⟨-, hlast⟩ := (eq_encode_iff v i).1 ((decode_eq_command_iff v i).1 hv)
  rw [opField] at hlast
  rw [hlast]
  exact (transition_cmdWrite_command he hv hb).trans (submit_accepted hb hc)

/-- Settles O49: the write of CMD is CMD_BUSY, ILLEGAL_CMD or the acceptance of the decoded command, which its own check
decides; the core step of the running command is `commandCore`. -/
theorem acceptanceAtEveryParameterSet : Obligations.AcceptanceAtEveryParameterSet := by
  intro p _
  refine ⟨fun s es v he => ⟨fun hb => ?_, fun hb => ⟨fun why hv => ?_, fun i hv => ⟨?_, ?_, ?_, ?_, ?_⟩⟩⟩,
    fun s i hb hop hi => ?_, fun s hb hop => ?_⟩
  · exact (transition_cmdWrite he).trans (submitWord_busy hb)
  · exact (transition_cmdWrite he).trans (submitWord_illegal hb hv)
  · rintro (rfl | rfl) hlen
    all_goals exact transition_cmdWrite_refused he hv hb (textLenCheck_eq_some hlen)
  · rintro rfl hn
    exact transition_cmdWrite_refused he hv hb (modulateCheck_wordCountRange hn)
  · rintro rfl hn hr
    exact transition_cmdWrite_refused he hv hb (modulateCheck_badRate hn hr)
  · rintro (rfl | rfl | ⟨rfl | rfl, hlen⟩)
    · exact transition_cmdWrite_accepted he hv hb rfl
    · exact transition_cmdWrite_accepted he hv hb rfl
    all_goals exact transition_cmdWrite_accepted he hv hb (textLenCheck_eq_none.2 hlen)
  · rintro rfl hn hr hrate
    exact transition_cmdWrite_accepted he hv hb (modulateCheck_none hn hr hrate)
  · rw [execWith_running hb hop]
    exact commandCore_compute_completes p s hi
  · rw [execWith_running hb hop]
    exact ⟨modulateCore_opening, modulateCore_stream, modulateCore_closing⟩

/-- Settles O9: `step` and `exec` are the machine of O49 at `Config.params`, whose buffers have 256 entries. -/
theorem acceptanceChecksInOrder : Obligations.AcceptanceChecksInOrder := by
  have h := acceptanceAtEveryParameterSet Config.params Config.params_legal
  simp only [← step_eq_transition, ← exec_eq_execWith] at h
  exact h

end Sys2Proof.Machine

/-!
PROOFS of the reset and hazards family (70_reset_and_hazards.md): what reset leaves (R241), what it abandons (R242), and
that a submitted compute command completes with its results (R253).
-/

namespace Sys2Proof.Machine

variable {p : Params} {s t : State} {i : Instr}

/-! ## Reset -/

theorem step_reset {es : List Event} (he : s.events = .reset :: es) :
    step s = .next (resetBlock { s with events := es }) := transition_reset he

/-- After power-on and after a reset transition, everything but the working state, the inputs still to come, the records
and the counts of free values is as in `State.reset` (70_reset_and_hazards.md R241). -/
theorem eq_reset_of_reset (h : t = State.reset ∨ ∃ s es, s.events = Event.reset :: es ∧ step s = .next t) :
    ∃ w m ev as sl rs d e, t = { State.reset with
      work := w, mpos := m, events := ev, answers := as, sinkLog := sl, reads := rs, draws := d, epoch := e } := by
  obtain rfl | ⟨s, es, he, hstep⟩ := h
  · exact ⟨_, _, _, _, _, _, _, _, rfl⟩
  · rw [step_reset he] at hstep
    cases hstep
    exact ⟨_, _, _, _, _, _, _, _, rfl⟩

/-- Settles O15: the state is `State.reset` but for fields that the statement leaves open, so no buffer entry is
written. -/
theorem resetLeaves : Obligations.ResetLeaves := by
  intro t h
  obtain ⟨w, m, ev, as, sl, rs, d, e, rfl⟩ := eq_reset_of_reset h
  have hword : Status.reset.word = 0#32 := by decide
  exact ⟨rfl, hword, rfl, rfl, rfl, rfl, rfl, rfl, rfl, rfl, rfl, rfl, rfl, rfl, rfl, rfl, rfl, fun _ => rfl,
    fun _ => rfl⟩

/-- Settles O16: the reset transition leaves an idle block with the inputs and records it had, and an idle block stays
as it is. -/
theorem resetAbandons : Obligations.ResetAbandons := by
  intro s es he
  exact ⟨_, step_reset he, rfl, rfl, rfl, rfl, rfl, rfl, rfl, rfl, rfl, rfl, run_idle rfl rfl⟩

/-! ## A submitted compute command -/

theorem commandCheck_compute_none (hi : i ≠ .modulate)
    (hlen : i = .packText ∨ i = .assemble → s.textLen.toNat ≤ p.textMax) : commandCheck p i s = none := by
  cases i with
  | encCw | encAddr => rfl
  | packText => exact textLenCheck_eq_none.2 (hlen (.inl rfl))
  | assemble => exact textLenCheck_eq_none.2 (hlen (.inr rfl))
  | modulate => exact absurd rfl hi

theorem commandStart_compute (hi : i ≠ .modulate) : commandStart p i s = s := by
  cases i with
  | encCw | encAddr | packText | assemble => rfl
  | modulate => exact absurd rfl hi

/-- With nothing else scheduled, a compute command submitted to an idle block is accepted by the first step and takes
its core step in the second (70_reset_and_hazards.md R253; log entry 1). -/
theorem run_submit_compute (hb : s.status.busy = false) (he : s.events = []) (hi : i ≠ .modulate)
    (hc : commandCheck Config.params i s = none) (hcore : commandCore Config.params i (s.accept i) = .next t) :
    Host.Core.run Sys2Proof.core 2 (s.withFetchWord 32 (encode i).toNat) = .next t := by
  have haccept : step (s.withFetchWord 32 (encode i).toNat) = .next (s.accept i) := by
    rw [s.withFetchWord_encode i, ← commandStart_compute (p := Config.params) (s := s.accept i) hi]
    exact step_cmdWrite_accepted rfl (decode_encode i) hb hc
  have hrun : step (s.accept i) = .next t := by
    rw [step_running (s := s.accept i) rfl rfl he, exec_running rfl rfl, hcore]
  rw [run_succ 1 haccept, run_succ 0 hrun, run_zero]

/-! ## The results of the commands that write the buffer -/

theorem State.wordCount_putWords_toNat (s : State) {ws : List Word} (h : ws.length < 2 ^ 32) :
    (s.putWords ws).wordCount.toNat = ws.length := by
  rw [State.putWords_wordCount, BitVec.toNat_ofNat, Nat.mod_eq_of_lt h]

/-- POSITION holds the packer's final position (42_packer.md R161). -/
theorem toNat_ofNat_pack_snd (al : PartialAlign) {n : Nat} (hn : n < 16) (chars : List Byte) :
    (BitVec.ofNat 4 (pack al n chars).2).toNat = (pack al n chars).2 := by
  obtain ⟨-, -, -, hpos, -⟩ := packCounts al n chars hn
  rw [BitVec.toNat_ofNat, hpos, Nat.mod_mod]

/-- What the packer sends of a text that TEXT_LEN_RANGE lets pass, WORD_COUNT can count (42_packer.md R161). -/
theorem length_pack_lt (al : PartialAlign) {n : Nat} (hn : n < 16) {chars : List Byte} (hlen : chars.length ≤ 256) :
    (pack al n chars).1.length < 2 ^ 32 := by
  obtain ⟨-, -, -, -, -, -, hmax⟩ := packCounts al n chars hn
  exact (hmax hlen).trans_lt (by decide)

/-- The transmission of a text of at most TEXT_MAX characters fits in the WORD buffer, so WORD_COUNT can count it
(00_scope.md R10). -/
theorem length_assembleWords_lt (al : PartialAlign) (a f : Word) {chars : List Byte} (hlen : chars.length ≤ 256) :
    (assembleWords al a f chars).length < 2 ^ 32 := by
  obtain ⟨hfit, -⟩ := outputFitsWordBuffer Config.params al a f 0 chars Config.params_legal hlen (by decide)
  exact hfit.trans_lt (by decide)

/-- Settles O46: the run is acceptance and the core step, whose results are the command's; what PACK_TEXT and ASSEMBLE
write is read back from WORD, WORD_COUNT and POSITION. -/
theorem computeCommandsComplete : Obligations.ComputeCommandsComplete := by
  intro s i hb he hi hlen
  have hrun {t : State} := run_submit_compute (t := t) hb he hi (commandCheck_compute_none hi hlen)
  cases i with
  | encCw => exact ⟨_, hrun rfl, rfl, rfl, he, fun _ => rfl, nofun, nofun, nofun⟩
  | encAddr => exact ⟨_, hrun rfl, rfl, rfl, he, nofun, fun _ => ⟨rfl, rfl⟩, nofun, nofun⟩
  | packText =>
    have hfit := length_pack_lt .msb s.startArg_lt (s.length_chars.trans_le (hlen (.inl rfl)))
    refine ⟨_, hrun rfl, rfl, rfl, he, nofun, nofun, fun _ => ?_, nofun⟩
    rw [← s.startArg_eq]
    exact ⟨(s.accept .packText).words_putWords hfit, (s.accept .packText).wordCount_putWords_toNat hfit,
      toNat_ofNat_pack_snd .msb s.startArg_lt s.chars⟩
  | assemble =>
    have hpos : (encodeAddress s.addr s.func).2.toNat + 1 < 16 :=
      Nat.lt_succ_of_le (Nat.succ_le_succ (encodeAddress_offset_le s.addr s.func))
    have hfit := length_assembleWords_lt .msb s.addr s.func (s.length_chars.trans_le (hlen (.inr rfl)))
    exact ⟨_, hrun rfl, rfl, rfl, he, nofun, nofun, nofun, fun _ =>
      ⟨(s.accept .assemble).words_putWords hfit, (s.accept .assemble).wordCount_putWords_toNat hfit, rfl, rfl,
        toNat_ofNat_pack_snd .msb hpos s.chars⟩⟩
  | modulate => exact absurd rfl hi

end Sys2Proof.Machine
